-- ==== Sys2Proof/Word.lean ====
section
/-! DEFINITION. The byte of a frame or of a plan section. Every other quantity of the manual is a whole
number (spec/00_scope.md, Quantities) and is held as `Nat` or `Int`. -/

namespace Sys2Proof

/-- One byte of a data field or of a plan section. -/
abbrev Byte := BitVec 8

end Sys2Proof
end

