-- ==== Sys2Proof/Config.lean ====
section
/-! DEFINITION. Sizes that the manual builds into the part and that no plan changes, and the one free value
that the manual leaves open. -/

namespace Sys2Proof.Config

/-- Fence slots (R57). -/
abbrev fenceSlots : Nat := 16

/-- Slots 1 to this number have origin SITE, the rest CAB (R57). -/
abbrev siteSlots : Nat := 10

/-- Service item numbers (R122). -/
abbrev itemNumbers : Nat := 24

/-- Entries the Alert List can hold (R134). -/
abbrev alertEntries : Nat := 24

/-- Power steps (R98). -/
abbrev powerSteps : Nat := 10

/-- Samples in the averaging window (R99). -/
abbrev windowSamples : Nat := 32

/-- The largest value of a 32-bit count (R116, R34, R172). -/
abbrev maxU32 : Nat := 4294967295

/-- The largest value of a 16-bit count. -/
abbrev maxU16 : Nat := 65535

/-- FREE VALUE (log 8): the order in which the raises and withdrawals of different owners in the n-th event
that has several reach the Alert List, as a code that `opsInOrder` reads. R138 leaves it open. -/
opaque ownerOrder : Nat → Nat

end Sys2Proof.Config
end

