-- ==== Sys2Proof/Syntax.lean ====
section
/-! DEFINITION. The commands of the GX-460: one constructor of `Instr` for each row of
spec/opcode_table.json, and the operands they carry. -/

namespace Sys2Proof

/-- The three attachment joints (spec/01, section 1.1), in the order R138 takes them. -/
inductive Joint where
  | boom | stick | bucket
  deriving DecidableEq, Repr

/-- The two CAN ports (spec/00, Connections), coded 0 and 1 by R169. -/
inductive Port where
  | implement | powertrain
  deriving DecidableEq, Repr

/-- The four masters and the source, in the order of the table of parties (R161). -/
inductive Party where
  | engine | cab | valve | gateway | sensor
  deriving DecidableEq, Repr

/-- The masters for which the Link Unit holds a read in progress (R168). -/
inductive Reader where
  | cab | gateway
  deriving DecidableEq, Repr

/-- An arriving frame: its port, the fields of its identifier other than the kind (R161), and its data
field. The kind is the command's constructor. -/
structure Frame where
  port : Port
  prio : BitVec 3
  dest : Byte
  src  : Byte
  data : List Byte
  deriving DecidableEq, Repr

/-- The kinds of message the part sends (R161). -/
inductive TxKind where
  | capSet | stepDemand | reqResult | readData | gradeStatus | envelopeStatus | econStatus
  | serviceStatus | alertOffer | planWanted | xferReady | xferSum | xferResult
  deriving DecidableEq, Repr

/-- A frame whose sending began before the event that ends it: what went onto the bus, and whether the
waiting entry's content was replaced while it was being sent (R165). -/
structure SentFrame where
  kind     : TxKind
  dest     : Byte
  data     : List Byte
  replaced : Bool
  deriving DecidableEq, Repr

/-- The two causes of going OFF (R171, R178). -/
inductive PowerCause where
  | supplyRemoved | resetAsserted
  deriving DecidableEq, Repr

/-- What the store chip reports of a plan image write (R159): the write on the port has completed (`written`) or
failed, or the report is that of a write that a newer commit has abandoned (DESIGN CHOICE, log 25). -/
inductive ImageReport where
  | written | failed | abandoned
  deriving DecidableEq, Repr

/-- The commands: the part's steps, each whole and indivisible (spec/95_what_each_step_holds.md). -/
inductive Instr where
  | jointSample (f : Frame)
  | frameSample (f : Frame)
  | slewSample (f : Frame)
  | pressureSample (f : Frame)
  | engineStatus (f : Frame)
  | valveStatus (f : Frame)
  | frameNotForPart (kind : BitVec 10) (f : Frame)
  | benchmarkCapture (f : Frame)
  | guardSet (f : Frame)
  | fenceSet (f : Frame)
  | fenceClear (f : Frame)
  | fencesConfirm (f : Frame)
  | econMode (f : Frame)
  | econCap (f : Frame)
  | siteStepCap (f : Frame)
  | serviceDefer (f : Frame)
  | serviceDone (f : Frame)
  | alertTake (f : Frame)
  | alertRelease (f : Frame)
  | alertMask (f : Frame)
  | planRequest (f : Frame)
  | xferOpen (f : Frame)
  | xferData (f : Frame)
  | xferEnd (f : Frame)
  | xferAbort (f : Frame)
  | read (f : Frame)
  | faultClear (f : Frame)
  | wake (f : Frame)
  | sleep (f : Frame)
  | txSuccess (p : Port) (earlier : Option SentFrame)
  | txError (p : Port)
  | portRejoin (p : Port)
  | keyOn
  | keyOff
  | powerLoss (cause : PowerCause)
  | coldStart
  | startingReadComplete
  | checkpointReport (completed : Bool)
  | planImageWriteReport (report : ImageReport)
  | pendingCheckpointStart
  | planImageWriteStart
  | enterParked
  | startPlanWanted
  | readNextPage (r : Reader)
  | jointHeldExpiry (j : Joint)
  | jointInvalidExpiry (j : Joint)
  | frameHeldExpiry
  | frameInvalidExpiry
  | slewExpiry
  | abandonTimeExpiry
  | idleDelayExpiry
  | hundredthHourCompletion (step : Nat)
  | highPressureMinute
  | gradeStatusPeriod
  | envelopeStatusPeriod
  | capSetPeriod
  | stepDemandPeriod
  | econStatusPeriod
  | echoTimerExpiry
  | linkSilentExpiry (l : Party)
  | linkOfflineExpiry (l : Party)
  | requestTimerExpiry
  | inactivityTimerExpiry
  | serviceAwakeTimerExpiry
  | recessiveRunObserved (p : Port)
  deriving DecidableEq, Repr

end Sys2Proof
end

