-- ==== Sys2Proof/Decode.lean ====
section
/-! DEFINITION. The frame tables of R161 and R169 (node numbers, kind numbers, data lengths), the decoding
of an arriving frame's identifier to the command it is, and its encoder. No row of spec/opcode_table.json
gives bits, so `decodeTableWord` answers none. -/

namespace Sys2Proof

/-- The kinds of frame the part receives (R161): the samples and reports, the requests, the transfer
requests. -/
inductive RxKind where
  | jointSample | frameSample | slewSample | pressureSample
  | engineStatus | valveStatus
  | benchmarkCapture | guardSet | fenceSet | fenceClear | fencesConfirm | econMode | econCap
  | serviceDefer | serviceDone | alertTake | alertRelease | alertMask | planRequest | read | faultClear
  | siteStepCap | wake | sleep
  | xferOpen | xferData | xferEnd | xferAbort
  deriving DecidableEq, Repr

/-- The kind numbers of R161. -/
def RxKind.number : RxKind → BitVec 10
  | .jointSample => 0x010 | .frameSample => 0x011 | .slewSample => 0x012 | .pressureSample => 0x013
  | .engineStatus => 0x020 | .valveStatus => 0x021
  | .benchmarkCapture => 0x100 | .guardSet => 0x101 | .fenceSet => 0x102 | .fenceClear => 0x103
  | .fencesConfirm => 0x104 | .econMode => 0x105 | .econCap => 0x106 | .serviceDefer => 0x107
  | .serviceDone => 0x108 | .alertTake => 0x109 | .alertRelease => 0x10A | .alertMask => 0x10B
  | .planRequest => 0x10C | .read => 0x10D | .faultClear => 0x10E | .siteStepCap => 0x10F
  | .wake => 0x110 | .sleep => 0x111
  | .xferOpen => 0x180 | .xferData => 0x181 | .xferEnd => 0x182 | .xferAbort => 0x183

/-- Every kind the part receives, in the order of R161. -/
def RxKind.all : List RxKind :=
  [.jointSample, .frameSample, .slewSample, .pressureSample, .engineStatus, .valveStatus,
   .benchmarkCapture, .guardSet, .fenceSet, .fenceClear, .fencesConfirm, .econMode, .econCap,
   .serviceDefer, .serviceDone, .alertTake, .alertRelease, .alertMask, .planRequest, .read, .faultClear,
   .siteStepCap, .wake, .sleep, .xferOpen, .xferData, .xferEnd, .xferAbort]

/-- The received kind with a kind number, or none (R162, test 4). -/
def RxKind.ofNumber (n : BitVec 10) : Option RxKind :=
  RxKind.all.find? fun k => k.number == n

/-- Whether a kind is a request kind: the third received group and the transfer requests (R161). -/
def RxKind.isRequest : RxKind → Bool
  | .jointSample | .frameSample | .slewSample | .pressureSample | .engineStatus | .valveStatus => false
  | _ => true

/-- The one sender of a sample or report kind (R162, test 5). -/
def RxKind.sender : RxKind → Option Party
  | .jointSample | .frameSample | .slewSample | .pressureSample => some .sensor
  | .engineStatus => some .engine
  | .valveStatus => some .valve
  | _ => none

/-- The data length of a kind (R169); XFER_DATA has none of its own (R163). -/
def RxKind.dataLength : RxKind → Option Nat
  | .jointSample => some 8 | .frameSample => some 4 | .slewSample => some 7 | .pressureSample => some 6
  | .engineStatus => some 7 | .valveStatus => some 8
  | .benchmarkCapture => some 2 | .guardSet => some 1 | .fenceSet => some 11 | .fenceClear => some 1
  | .fencesConfirm => some 0 | .econMode => some 2 | .econCap => some 1 | .serviceDefer => some 5
  | .serviceDone => some 1 | .alertTake => some 2 | .alertRelease => some 0 | .alertMask => some 1
  | .planRequest => some 0 | .read => some 2 | .faultClear => some 0 | .siteStepCap => some 1
  | .wake => some 0 | .sleep => some 0
  | .xferOpen => some 3 | .xferData => none | .xferEnd => some 0 | .xferAbort => some 0

/-- Whether a data field has a length the kind allows: the length of R169, and at least the offset for
XFER_DATA (R163). -/
def RxKind.lengthOk (k : RxKind) (data : List Byte) : Bool :=
  match k.dataLength with
  | some n => data.length == n
  | none => decide (2 ≤ data.length)

/-- Node numbers (R161). -/
def Party.node : Party → Byte
  | .engine => 0x11 | .cab => 0x21 | .valve => 0x31 | .gateway => 0x51 | .sensor => 0x61

/-- The port the table of parties gives for a node (R161). -/
def Party.port : Party → Port
  | .engine | .gateway => .powertrain
  | .cab | .valve | .sensor => .implement

/-- The parties in the order of the table (R161). -/
def Party.all : List Party := [.engine, .cab, .valve, .gateway, .sensor]

/-- The party with a node number (R162, test 1). -/
def Party.ofNode (n : Byte) : Option Party :=
  Party.all.find? fun p => p.node == n

/-- The part's own node number (R161). -/
def partNode : Byte := 0x40

/-- The destination that every node takes (R162, test 3). -/
def broadcastNode : Byte := 0xFF

/-- Silent time of a link, ms (R161). -/
def Party.silentTime : Party → Nat
  | .engine => 300 | .cab => 500 | .valve => 100 | .gateway => 5000 | .sensor => 100

/-- Offline time of a link, ms (R161). -/
def Party.offlineTime : Party → Nat
  | .engine => 1500 | .cab => 2500 | .valve => 500 | .gateway => 25000 | .sensor => 500

/-- The largest data field of a port, in bytes (spec/10, introduction). -/
def Port.maxData : Port → Nat
  | .implement => 24 | .powertrain => 12

/-- Kind numbers of the messages the part sends (R161). -/
def TxKind.number : TxKind → Nat
  | .capSet => 0x030 | .stepDemand => 0x031 | .reqResult => 0x120 | .readData => 0x121
  | .gradeStatus => 0x140 | .envelopeStatus => 0x141 | .econStatus => 0x142 | .serviceStatus => 0x143
  | .alertOffer => 0x144 | .planWanted => 0x190 | .xferReady => 0x191 | .xferSum => 0x192
  | .xferResult => 0x193

/-- The priority the part sends each kind with (R161). -/
def TxKind.priority : TxKind → Nat
  | .capSet | .stepDemand => 1
  | .reqResult => 4
  | .readData => 6
  | .gradeStatus | .envelopeStatus | .econStatus | .serviceStatus | .alertOffer => 5
  | .planWanted | .xferReady | .xferSum | .xferResult => 6

/-- The 29-bit identifier of a message the part sends (R161). -/
def TxKind.identifier (k : TxKind) (dest : Byte) : Nat :=
  k.priority * 67108864 + k.number * 65536 + dest.toNat * 256 + partNode.toNat

/-- The parts of an arriving frame that no state decides: it names a party on that party's port, is
addressed to the part, is of a received kind, and is either a sample or report from its proper sender with
its length, or a request kind from a master (R162, tests 1 and 3 to 6). -/
def RxKind.reaches (k : RxKind) (f : Frame) : Bool :=
  match Party.ofNode f.src with
  | none => false
  | some p =>
    p.port == f.port && (f.dest == partNode || f.dest == broadcastNode) &&
      (if k.isRequest then p != .sensor else k.sender == some p && k.lengthOk f.data)

/-- The command that a frame of a received kind is. -/
def RxKind.toInstr (k : RxKind) (f : Frame) : Instr :=
  match k with
  | .jointSample => .jointSample f | .frameSample => .frameSample f | .slewSample => .slewSample f
  | .pressureSample => .pressureSample f | .engineStatus => .engineStatus f | .valveStatus => .valveStatus f
  | .benchmarkCapture => .benchmarkCapture f | .guardSet => .guardSet f | .fenceSet => .fenceSet f
  | .fenceClear => .fenceClear f | .fencesConfirm => .fencesConfirm f | .econMode => .econMode f
  | .econCap => .econCap f | .serviceDefer => .serviceDefer f | .serviceDone => .serviceDone f
  | .alertTake => .alertTake f | .alertRelease => .alertRelease f | .alertMask => .alertMask f
  | .planRequest => .planRequest f | .read => .read f | .faultClear => .faultClear f
  | .siteStepCap => .siteStepCap f | .wake => .wake f | .sleep => .sleep f
  | .xferOpen => .xferOpen f | .xferData => .xferData f | .xferEnd => .xferEnd f | .xferAbort => .xferAbort f

/-- The identifier of an arriving frame (R161): priority in bits 28 to 26, kind in 25 to 16, destination in
15 to 8, source in 7 to 0. -/
def frameIdentifier (kind : BitVec 10) (f : Frame) : BitVec 29 :=
  f.prio ++ kind ++ f.dest ++ f.src

/-- The frame with an identifier, a port and a data field (R161). -/
def frameOf (port : Port) (ident : BitVec 29) (data : List Byte) : Frame :=
  { port := port, prio := ident.extractLsb' 26 3, dest := ident.extractLsb' 8 8,
    src := ident.extractLsb' 0 8, data := data }

/-- The kind number in an identifier (R161). -/
def identifierKind (ident : BitVec 29) : BitVec 10 := ident.extractLsb' 16 10

/-- The command that an arriving CAN frame is: the row of its kind where the frame reaches that kind's
owner or its judgement, FRAME_NOT_FOR_PART otherwise (R161, R162). -/
def decodeFrame (port : Port) (ident : BitVec 29) (data : List Byte) : Instr :=
  let f := frameOf port ident data
  match RxKind.ofNumber (identifierKind ident) with
  | some k => if k.reaches f then k.toInstr f else .frameNotForPart (identifierKind ident) f
  | none => .frameNotForPart (identifierKind ident) f

/-- The command a word spells by the table's bits. No row of spec/opcode_table.json gives bits. -/
def decodeTableWord (_nbits _w : Nat) : Option Instr := none

end Sys2Proof
end

