-- ==== Sys2Proof/Machine/Types.lean ====
section
/-! DEFINITION. The records of the twelve blocks as plain data, each with the rule that gives its fields.
Enumerations list their values in the order of the rule that defines them, since R169 codes them so. -/

namespace Sys2Proof.Machine

/-! ### Functions (spec/05, section 5.1) -/

/-- The eight hydraulic functions, in the order of the function table. -/
inductive Func where
  | slewLeft | slewRight | boomUp | boomDown | stickOut | stickIn | bucketCurl | bucketDump
  deriving DecidableEq, Repr

/-- One value for each of the eight functions. -/
structure Eight (α : Type) where
  slewLeft   : α
  slewRight  : α
  boomUp     : α
  boomDown   : α
  stickOut   : α
  stickIn    : α
  bucketCurl : α
  bucketDump : α
  deriving DecidableEq, Repr

/-- The demands of one contributor, in permille (R84). -/
abbrev Row := Eight Nat

/-! ### Measurement Unit (spec/01) -/

/-- Status of a channel or of the slew encoder. -/
inductive Status where
  | ok | fault
  deriving DecidableEq, Repr

/-- Use of a channel in the last vote (R2). -/
inductive Use where
  | used | leftOut
  deriving DecidableEq, Repr

/-- Joint quality (section 1.1). -/
inductive JointQuality where
  | good | two | held | invalid
  deriving DecidableEq, Repr

/-- Outcome of a vote (R3, R4). -/
inductive Vote where
  | good | two | invalid
  deriving DecidableEq, Repr

/-- One inclinometer channel of a joint record. -/
structure Channel where
  reading : Int
  status  : Status
  use     : Use
  deriving DecidableEq, Repr

/-- Joint record (section 1.1), and whether JOINT_INVALID stands (R6). -/
structure JointRec where
  ch1      : Channel
  ch2      : Channel
  ch3      : Channel
  voted    : Int
  quality  : JointQuality
  lastVote : Vote
  age      : Nat
  invalidStands : Bool
  deriving DecidableEq, Repr

/-- Frame quality (section 1.1). -/
inductive FrameQuality where
  | good | held | invalid
  deriving DecidableEq, Repr

/-- Last FRAME_SAMPLE (R7). -/
inductive LastFrame where
  | accepted | rejected
  deriving DecidableEq, Repr

/-- Frame record (section 1.1), and whether FRAME_INVALID stands (R7). -/
structure FrameRec where
  pitch   : Int
  roll    : Int
  quality : FrameQuality
  last    : LastFrame
  age     : Nat
  invalidStands : Bool
  deriving DecidableEq, Repr

/-- Slew index state (section 1.1). -/
inductive IndexState where
  | unindexed | indexed | calibrated
  deriving DecidableEq, Repr

/-- Slew direction (R10). -/
inductive SlewDir where
  | still | left | right
  deriving DecidableEq, Repr

/-- Last moving direction (R11). -/
inductive Moving where
  | none | left | right
  deriving DecidableEq, Repr

/-- Direction of a latched first pass (R12). -/
inductive Turn where
  | left | right
  deriving DecidableEq, Repr

/-- Slew record (section 1.1). -/
structure SlewRec where
  raw        : Nat
  index      : Nat
  nrev       : Nat
  state      : IndexState
  measured   : Bool
  angle      : Nat
  speed      : Int
  dir        : SlewDir
  lastMoving : Moving
  firstPass  : Option (Nat × Turn)
  encoder    : Status
  reversals  : Nat
  age        : Nat
  deriving DecidableEq, Repr

/-- Pressure record (section 1.1). -/
structure PressureRec where
  pump          : Nat
  travel        : Nat
  implement     : Nat
  travelFlag    : Bool
  implementFlag : Bool
  highFlag      : Bool
  deriving DecidableEq, Repr

/-- The Measurement Unit's records. -/
structure Meas where
  boom   : JointRec
  stick  : JointRec
  bucket : JointRec
  frame  : FrameRec
  slew   : SlewRec
  press  : PressureRec
  deriving DecidableEq, Repr

/-! ### Pose Unit and Cycle Monitor (spec/02) -/

/-- Geometry in force (R21). -/
structure Geometry where
  l1 : Nat
  l2 : Nat
  l3 : Nat
  a0 : Nat
  h0 : Nat
  t  : Nat
  deriving DecidableEq, Repr

/-- Pose quality (R30). -/
inductive PoseQuality where
  | good | degraded | invalid
  deriving DecidableEq, Repr

/-- The set of degrade reasons (R30). -/
structure Reasons where
  jointTwo  : Bool
  jointHeld : Bool
  frameHeld : Bool
  tilt      : Bool
  saturated : Bool
  deriving DecidableEq, Repr

/-- Pose record (R32). -/
structure PoseRec where
  rf : Int
  zf : Int
  rs : Int
  zs : Int
  rk : Int
  zk : Int
  rt : Int
  zt : Int
  htop : Int
  rmax : Int
  lowest : Int
  bucketAngle : Int
  slew : Option Nat
  plan : Option (Int × Int)
  saturated : Bool
  quality   : PoseQuality
  reasons   : Reasons
  deriving DecidableEq, Repr

/-- The Pose Unit: its record and whether TILT stands (R31). -/
structure PoseUnit where
  record : PoseRec
  tilt : Bool
  deriving DecidableEq, Repr

/-- Cycle state (R34). -/
inductive CycleState where
  | idle | digging | swingLoaded | dumping | swingEmpty
  deriving DecidableEq, Repr

/-- The Cycle Monitor (R34). -/
structure Cycle where
  state   : CycleState
  age     : Nat
  rest    : Nat
  session : Nat
  total   : Nat
  deriving DecidableEq, Repr

/-! ### Grade Guide (spec/03) -/

/-- Benchmark state (R42). -/
inductive BenchState where
  | none | current | stale
  deriving DecidableEq, Repr

/-- Benchmark record (R42). -/
structure Benchmark where
  state : BenchState
  zb : Int
  eb : Int
  xb : Int
  yb : Int
  deriving DecidableEq, Repr

/-- One design panel (R45). -/
structure Panel where
  number : Nat
  start  : Nat
  stop   : Nat
  low    : Int
  high   : Int
  e0     : Int
  gx     : Int
  gy     : Int
  deriving DecidableEq, Repr

/-- Guidance status (R48). -/
inductive GuideStatus where
  | noPlan | poseInvalid | noBenchmark | staleBenchmark | noPanel | lowConfidence | valid
  deriving DecidableEq, Repr

/-- Guidance record (R48). -/
structure Guidance where
  status  : GuideStatus
  tip     : Option Int
  design  : Option Int
  cutFill : Option Int
  panel   : Option Nat
  deriving DecidableEq, Repr

/-- Guard state (R52). -/
inductive GuardState where
  | off | active | suspended
  deriving DecidableEq, Repr

/-- The Grade Guide. -/
structure Grade where
  bench    : Benchmark
  guardOn  : Bool
  guide    : Guidance
  guard    : GuardState
  demand   : Nat
  deriving DecidableEq, Repr

/-! ### Envelope Unit (spec/04) -/

/-- Fence kinds (R57). -/
inductive FenceKind where
  | sector | ceiling | floor | reach
  deriving DecidableEq, Repr

/-- Fence states (R57). -/
inductive FenceState where
  | empty | clear | approach | held | breached | indeterminate
  deriving DecidableEq, Repr

/-- Unit of a remaining distance (R57). -/
inductive DistUnit where
  | mm | cd
  deriving DecidableEq, Repr

/-- Remaining distance (R65). -/
structure Distance where
  amount : Int
  unit   : DistUnit
  deriving DecidableEq, Repr

/-- Kind, sector, limit (absent for SECTOR) and band of a fence (R57). -/
structure FenceGeom where
  kind  : FenceKind
  start : Nat
  stop  : Nat
  limit : Option Int
  band  : Nat
  deriving DecidableEq, Repr

/-- The contents of an occupied slot (R57): effective fence, site part, and flags. -/
structure Fence where
  eff       : FenceGeom
  site      : Option FenceGeom
  verified  : Bool
  tightened : Bool
  deriving DecidableEq, Repr

/-- The four fence alerts of R71. -/
inductive FenceAlert where
  | approach | held | breached | indeterminate
  deriving DecidableEq, Repr

/-- One slot of the fence table (R57). -/
structure FenceSlot where
  fence     : Option Fence
  state     : FenceState
  remaining : Option Distance
  demands   : Row
  alert     : Option FenceAlert
  deriving DecidableEq, Repr

/-- The Envelope Unit: slots 1 to 16 in order, the ENVELOPE_CRAWL demand (R68), and whether SLEW_UNINDEXED
stands (R72). -/
structure Env where
  slots     : List FenceSlot
  crawl     : Row
  unindexed : Bool
  deriving DecidableEq, Repr

/-! ### Cap Merger (spec/05) -/

/-- Limiting contributor of a cap record (R84). -/
inductive Contributor where
  | fence (slot : Nat) | envelopeCrawl | service (item : Nat) | gradeGuard | none
  deriving DecidableEq, Repr

/-- Cap record (R84). -/
structure CapRec where
  value    : Nat
  limiting : Contributor
  deriving DecidableEq, Repr

/-- The demand table (R84): sixteen slots, ENVELOPE_CRAWL, twenty-four items, GRADE_GUARD. -/
structure DemandTable where
  slots : List Row
  crawl : Row
  items : List Row
  guard : Row
  deriving DecidableEq, Repr

/-- State of the echo check (R93). -/
inductive EchoState where
  | noReference | agreed | disagreeing | mismatched
  deriving DecidableEq, Repr

/-- The Cap Merger. `lastPlaced` is the data of the CAP_SET placed last (R88). -/
structure Merger where
  rows       : DemandTable
  caps       : Eight CapRec
  sending    : Bool
  lastPlaced : Option (List Byte)
  lastSent   : Option (Eight Nat)
  sentBefore : Option (Eight Nat)
  check      : EchoState
  mismatched : Eight Bool
  echoTimer  : Nat
  deriving DecidableEq, Repr

/-! ### Economy Unit (spec/06) -/

/-- Engine record (R96). -/
structure EngineRec where
  speed   : Nat
  load    : Nat
  fuel    : Nat
  derate  : Nat
  running : Bool
  age     : Nat
  previous : Bool
  deriving DecidableEq, Repr

/-- One row of the step table (R98). -/
structure StepRow where
  rpm       : Nat
  threshold : Nat
  weight    : Nat
  deriving DecidableEq, Repr

/-- Economy settings in force (R98). The idle delay is in seconds. -/
structure EconSettings where
  steps       : List StepRow
  startStep   : Nat
  siteStepCap : Nat
  idleDelay   : Nat
  floorStep   : Nat
  fenceStep   : Nat
  capIdle     : Nat
  capDigging  : Nat
  capLoaded   : Nat
  capDumping  : Nat
  capEmpty    : Nat
  capTravel   : Nat
  deriving DecidableEq, Repr

/-- Economy mode (R102). -/
inductive EconMode where
  | auto | manual
  deriving DecidableEq, Repr

/-- Idle state (R108). -/
inductive IdleState where
  | active | idling
  deriving DecidableEq, Repr

/-- Limiting input of the chosen step (R106), in the order R169 codes it. -/
inductive Limiting where
  | selection | fence | service | phase | site | operator
  deriving DecidableEq, Repr

/-- The Economy Unit's records and settings other than its judgement (R96, R99, R102 to R105, R108). -/
structure Econ where
  engine     : EngineRec
  selection  : Nat
  manualStep : Nat
  mode       : EconMode
  count      : Nat
  sum        : Nat
  down       : Nat
  average    : Option Nat
  operatorCap : Nat
  siteCap    : Nat
  cycleCopy  : CycleState
  travelCopy : Bool
  stopCopy   : Bool
  idle       : IdleState
  idleTimer  : Nat
  deriving DecidableEq, Repr

/-- The judgement of the step (R106, R107), the service cap as last taken (R105), and the STEP_DEMAND
placed last (R110). -/
structure StepRec where
  serviceCap  : Nat
  chosen      : Nat
  limiting    : Limiting
  issued      : Nat
  floorStands : Bool
  lastDemand  : Option (Nat × Nat)
  deriving DecidableEq, Repr

/-! ### Service Account Unit (spec/07) -/

/-- Step-time accumulator (R116). -/
structure Accumulator where
  whole : Nat
  rem   : Nat
  deriving DecidableEq, Repr

/-- The meters of R116. `acc` holds the accumulators of steps 1 to 10 in order. -/
structure Meters where
  acc         : List Accumulator
  hour        : Nat
  weighted    : Nat
  weightRem   : Nat
  litres      : Nat
  millilitres : Nat
  fuelRem     : Nat
  highMinutes : Nat
  highRem     : Nat
  reversals   : Nat
  digCycles   : Nat
  deriving DecidableEq, Repr

/-- The charging state (R116). -/
structure Charging where
  step    : Nat
  running : Bool
  high    : Bool
  deriving DecidableEq, Repr

/-- Basis of a service item (R122). -/
inductive Basis where
  | engineHours | weightedHours | slewReversals | digCycles | highPressureMin | fuelL
  deriving DecidableEq, Repr

/-- Definition part of an item record (R122). The function derate is a set of functions and a cap. -/
structure ItemDef where
  number    : Nat
  label     : Nat
  basis     : Basis
  interval  : Nat
  warn      : Nat
  margin    : Nat
  cabSignOff : Bool
  funcDerate : Option (Eight Bool × Nat)
  stepDerate : Option Nat
  deriving DecidableEq, Repr

/-- Item state (R122). -/
inductive ItemState where
  | ok | dueSoon | due | deferred | overdue
  deriving DecidableEq, Repr

/-- Usage part of an item record other than the standing alert (R122). -/
structure Usage where
  used          : Nat
  state         : ItemState
  deferredUntil : Option Nat
  deferredFlag  : Bool
  signOffs      : Nat
  hourAt        : Nat
  deriving DecidableEq, Repr

/-- The three service alerts of R126. -/
inductive ItemAlert where
  | dueSoon | due | overdue
  deriving DecidableEq, Repr

/-- Service item record (R122). -/
structure Item where
  defn  : ItemDef
  usage : Usage
  alert : Option ItemAlert
  deriving DecidableEq, Repr

/-- An item number with its basis and usage, or marked lost (R130, R131). -/
structure UsageEntry where
  number  : Nat
  content : Option (Basis × Usage)
  deriving DecidableEq, Repr

/-- The Service Account Unit's meters, item table and held usage (R116, R122, R130). -/
structure Service where
  meters : Meters
  items  : List Item
  held   : Option (List UsageEntry)
  deriving DecidableEq, Repr

/-- Account image (R131). The meters' `digCycles` is the Cycle Monitor's total count. -/
structure AccountImage where
  meters : Meters
  nrev   : Nat
  items  : List UsageEntry
  deriving DecidableEq, Repr

/-! ### Alert List (spec/08) -/

/-- Alert codes, in the order of R146. -/
inductive AlertCode where
  | jointSpread | jointInvalid | frameInvalid | slewEncoderFault | slewCalFailed | tilt | guardSuspended
  | fenceApproach | fenceHeld | fenceIndeterminate | fenceBreached | slewUnindexed | fencesUnverified
  | valveEchoMismatch | engineDerateFloor | serviceDueSoon | serviceDue | serviceOverdue
  | planNone | planTransferFailed | planCommitted | linkSilent | linkOffline | portBusOff
  | storeAccountsLost
  deriving DecidableEq, Repr

/-- Alert subjects (R134). -/
inductive Subject where
  | none | slot (n : Nat) | item (n : Nat) | joint (j : Joint) | party (p : Party) | port (p : Port)
  deriving DecidableEq, Repr

/-- Alert class (R134). -/
inductive AlertClass where
  | condition | event
  deriving DecidableEq, Repr

/-- Alert List entry (R134). The class is a function of the code (R146). -/
structure AlertEntry where
  code      : AlertCode
  subject   : Subject
  priority  : Nat
  seq       : Nat
  acked     : Bool
  inService : Bool
  resolved  : Bool
  repeats   : Nat
  hourAt    : Nat
  deriving DecidableEq, Repr

/-- What the last ALERT_OFFER carried of the offered entry and of the highest entry in service, as far as
R142 compares it. -/
structure OfferKey where
  offered : Option (AlertCode × Subject × Nat × Nat)
  top     : Option (AlertCode × Subject × Bool)
  deriving DecidableEq, Repr

/-- The Alert List (R134). -/
structure Alerts where
  entries   : List AlertEntry
  mask      : Nat
  notListed : Bool
  nextSeq   : Nat
  lastOffer : Option OfferKey
  deriving DecidableEq, Repr

/-! ### Plan Store (spec/09) -/

/-- The sections of a work plan, in the order R169 codes them. -/
inductive Section where
  | geometry | panels | fences | economy | service | limits | index
  deriving DecidableEq, Repr

/-- One value for each of the seven sections. -/
structure Seven (α : Type) where
  geometry : α
  panels   : α
  fences   : α
  economy  : α
  service  : α
  limits   : α
  index    : α
  deriving DecidableEq, Repr

/-- One region of the staging area (R148): the run of bytes written from offset 0, and what R154 keeps. -/
structure Region where
  received : Bool
  length   : Nat
  sum      : BitVec 16
  bytes    : List Byte
  deriving DecidableEq, Repr

/-- Constants and thresholds of the LIMITS section (R58, R34, R52, R15, R8). The abandon time is in
seconds. -/
structure Limits where
  crawl        : Nat
  margin       : Nat
  decel        : Nat
  vmax         : Nat
  defaultBand  : Nat
  guardBand    : Nat
  nominalNrev  : Nat
  digHeight    : Int
  digPressure  : Nat
  dumpAngle    : Int
  abandonTime  : Nat
  highPressure : Nat
  deriving DecidableEq, Repr

/-- The values in force that the blocks take from the active plan, or the built-in ones (R21, R45, R58,
R98, R160). -/
structure InForce where
  geom   : Geometry
  panels : List Panel
  econ   : EconSettings
  limits : Limits
  deriving DecidableEq, Repr

/-- A whole plan (R147): its sections as committed, INDEX included, and their checksums. -/
structure ActivePlan where
  bytes : Seven (List Byte)
  sums  : Seven (BitVec 16)
  deriving DecidableEq, Repr

/-- What the blocks take from a plan: the values in force, the site fences by slot, and the item
definitions (R157). -/
structure PlanContent where
  inForce : InForce
  fences  : List (Nat × FenceGeom)
  items   : List ItemDef
  deriving DecidableEq, Repr

/-- Transfer state (R150). -/
inductive XferState where
  | idle | requested | opened | receiving
  deriving DecidableEq, Repr

/-- State of the plan image (R159). -/
inductive ImageState where
  | valid | storing | absent
  deriving DecidableEq, Repr

/-- The Plan Store (R147, R148, R150, R151, R159). Timers hold the ms left to run. -/
structure PlanStore where
  active       : Option ActivePlan
  staging      : Seven Region
  xfer         : XferState
  receiving    : Section
  declared     : Nat
  expected     : Nat
  requestTimer : Nat
  inactTimer   : Nat
  image        : ImageState
  startPending : Bool
  deriving DecidableEq, Repr

/-! ### Link Unit (spec/10) -/

/-- A message waiting in a transmit list (R165). -/
structure TxEntry where
  kind : TxKind
  dest : Byte
  data : List Byte
  deriving DecidableEq, Repr

/-- Bus state (R166). -/
inductive BusState where
  | onBus | busOff
  deriving DecidableEq, Repr

/-- Port record and transmit list (R165, R166). -/
structure PortRec where
  bus      : BusState
  errors   : Nat
  recovery : Nat
  busOffs  : Nat
  list     : List TxEntry
  deriving DecidableEq, Repr

/-- The two ports. -/
structure Ports where
  implement  : PortRec
  powertrain : PortRec
  deriving DecidableEq, Repr

/-- Link state (R167). -/
inductive LinkState where
  | online | silent | offline
  deriving DecidableEq, Repr

/-- Link record (R167), and whether LINK_OFFLINE stands. -/
structure LinkRec where
  state   : LinkState
  silence : Nat
  offlineStands : Bool
  deriving DecidableEq, Repr

/-- The five link records. -/
structure Links where
  engine  : LinkRec
  cab     : LinkRec
  valve   : LinkRec
  gateway : LinkRec
  sensor  : LinkRec
  deriving DecidableEq, Repr

/-- Results of a request, in the order R169 codes them. -/
inductive Result where
  | done | clamped | refusedPermission | refusedState | refusedRange | refusedLoosen | noSuchItem
  deriving DecidableEq, Repr

/-- A capture of the message fault record (R164). -/
structure FaultRec where
  node   : Byte
  kind   : RxKind
  result : Result
  hour   : Nat
  more   : Bool
  deriving DecidableEq, Repr

/-- A read in progress (R168): the snapshot and the page placed last. -/
structure ReadProg where
  selector : Byte
  index    : Byte
  bytes    : List Byte
  page     : Nat
  deriving DecidableEq, Repr

/-- The reads in progress (R168). -/
structure Reads where
  cab     : Option ReadProg
  gateway : Option ReadProg
  deriving DecidableEq, Repr

/-! ### Retained Store controller (spec/11) -/

/-- Power states, in the order of R171. -/
inductive Power where
  | off | starting | run | parking | parked | serviceAwake
  deriving DecidableEq, Repr

/-- The lines the part reads (spec/00, Connections; R171). -/
structure Pins where
  keyOn         : Bool
  supply        : Bool
  resetReleased : Bool
  deriving DecidableEq, Repr

/-- The two account slots (R173). -/
inductive SlotId where
  | a | b
  deriving DecidableEq, Repr

/-- An account slot on the store chip (R172, R173): its sequence number and account image, and the checksum
stored with them, none while the slot is marked invalid. -/
structure AccountSlot where
  seq   : Nat
  image : AccountImage
  sum   : Option (BitVec 16)
  deriving DecidableEq, Repr

/-- The plan image on the store chip (R159): seven sections and the checksum of the whole. -/
structure PlanImage where
  bytes : Seven (List Byte)
  sum   : BitVec 16
  deriving DecidableEq, Repr

/-- What the store chip holds. -/
structure Chip where
  slotA : AccountSlot
  slotB : AccountSlot
  image : Option PlanImage
  deriving DecidableEq, Repr

/-- A checkpoint being written (R173): the slot, the sequence and snapshot it will hold, and whether it is
the parking checkpoint (R175). -/
structure Writing where
  slot    : SlotId
  seq     : Nat
  image   : AccountImage
  parking : Bool
  deriving DecidableEq, Repr

/-- The plan image write at the store port (R174). -/
inductive ImageWrite where
  | none | waiting | onPort
  deriving DecidableEq, Repr

/-- The Retained Store controller (spec/11, head). `writing` is none in the checkpoint state IDLE. -/
structure Ctrl where
  current      : Nat
  writing      : Option Writing
  pendingCkpt  : Bool
  parkingCkpt  : Bool
  accountsLost : Bool
  awakeTimer   : Nat
  imageWrite   : ImageWrite
  deriving DecidableEq, Repr

/-- Time since the last placing of each periodic message, ms (R50, R80, R88, R110, R111). -/
structure Periods where
  grade    : Nat
  envelope : Nat
  capSet   : Nat
  step     : Nat
  econ     : Nat
  deriving DecidableEq, Repr

end Sys2Proof.Machine
end

