-- ==== Sys2Proof/Machine/Arith.lean ====
section
/-! DEFINITION. The manual's arithmetic: rounding, modulo and sectors (spec/00, Conventions), sine and
cosine (R22, R23), integer square root, saturation, the checksum (R149) and little-endian fields (R169). -/

namespace Sys2Proof.Machine

/-! ### Rounding, modulo, saturation -/

/-- `a / b` rounded to nearest, halves away from zero (spec/00, Arithmetic). -/
def roundDiv (a : Int) (b : Nat) : Int :=
  if 0 ≤ a then (2 * a + b) / (2 * b) else -((2 * (-a) + b) / (2 * b))

/-- `a mod n`, in the range 0 to n - 1 whatever the sign of a (spec/00, Arithmetic). -/
def modNat (a : Int) (n : Nat) : Nat := (a % (n : Int)).toNat

/-- A value bounded to a range. -/
def clampInt (lo hi a : Int) : Int := max lo (min hi a)

/-- A value bounded to the reported range of lengths (R29, R47, R65). -/
def sat16 (a : Int) : Int := clampInt (-32768) 32767 a

/-- A count that gains `n` and stays at its bound. -/
def addSat (bound a n : Nat) : Nat := max a (min bound (a + n))

/-- Binary digits of the square root, from bit `k - 1` down: `r` is the root found so far. -/
def isqrtFrom (n : Nat) : Nat → Nat → Nat
  | 0, r => r
  | k + 1, r =>
    let c := r + 2 ^ k
    if c * c ≤ n then isqrtFrom n k c else isqrtFrom n k r

/-- Integer square root: the greatest whole number whose square does not exceed `n` (spec/00, Terms). -/
def isqrt (n : Nat) : Nat := isqrtFrom n (n.log2 / 2 + 1) 0

/-! ### Slew sectors (spec/00, Slew sectors) -/

/-- The full circle, cd. -/
def fullCircle : Nat := 36000

/-- The angle from `a` counter-clockwise to `b`. -/
def angleTo (a b : Nat) : Nat := modNat ((b : Int) - a) fullCircle

/-- Width of the sector from `start` to `stop`. -/
def sectorWidth (start stop : Nat) : Nat := angleTo start stop

/-- Whether an angle is inside a sector, bounds included; a width of 0 holds its start angle only. -/
def inSector (start stop angle : Nat) : Bool := decide (angleTo start angle ≤ sectorWidth start stop)

/-- As `inSector`, with a width of 0 meaning all round, for the records that allow it. -/
def inSectorOrAround (start stop angle : Nat) : Bool :=
  sectorWidth start stop == 0 || inSector start stop angle

/-! ### Sine and cosine (R22, R23) -/

/-- The sine table: entry d is 16384 times the sine of d degrees, rounded to nearest (R22). -/
def sineTable : List Nat :=
  [0, 286, 572, 857, 1143, 1428, 1713, 1997, 2280, 2563] ++
  [2845, 3126, 3406, 3686, 3964, 4240, 4516, 4790, 5063, 5334] ++
  [5604, 5872, 6138, 6402, 6664, 6924, 7182, 7438, 7692, 7943] ++
  [8192, 8438, 8682, 8923, 9162, 9397, 9630, 9860, 10087, 10311] ++
  [10531, 10749, 10963, 11174, 11381, 11585, 11786, 11982, 12176, 12365] ++
  [12551, 12733, 12911, 13085, 13255, 13421, 13583, 13741, 13894, 14044] ++
  [14189, 14330, 14466, 14598, 14726, 14849, 14968, 15082, 15191, 15296] ++
  [15396, 15491, 15582, 15668, 15749, 15826, 15897, 15964, 16026, 16083] ++
  [16135, 16182, 16225, 16262, 16294, 16322, 16344, 16362, 16374, 16382] ++
  [16384]

/-- Entry d of the sine table. -/
def sineEntry (d : Nat) : Nat := sineTable.getD d 0

/-- First-quadrant sine of an angle from 0 to 9000 cd (R22). -/
def quadrantSine (a : Nat) : Int :=
  let d := a / 100
  let f := a % 100
  if f = 0 then sineEntry d
  else sineEntry d + roundDiv (((sineEntry (d + 1) : Int) - sineEntry d) * f) 100

/-- Sine of any angle in cd, scaled by 16384 (R23). -/
def sine (a : Int) : Int :=
  let r := modNat a fullCircle
  if r ≤ 9000 then quadrantSine r
  else if r ≤ 18000 then quadrantSine (18000 - r)
  else if r ≤ 27000 then -quadrantSine (r - 18000)
  else -quadrantSine (36000 - r)

/-- Cosine of any angle in cd, scaled by 16384 (R23). -/
def cosine (a : Int) : Int := sine (9000 - a)

/-- A term: a length times a sine or cosine, divided by 16384 and rounded to nearest (R24). -/
def term (length ratio : Int) : Int := roundDiv (length * ratio) 16384

/-! ### Checksum (R149) -/

/-- One byte into the checksum: rotate left by 3 bits, then add. -/
def checksumStep (sum : BitVec 16) (b : Byte) : BitVec 16 := sum.rotateLeft 3 + b.setWidth 16

/-- The checksum of a run of bytes. -/
def checksum (bytes : List Byte) : BitVec 16 := bytes.foldl checksumStep 0

/-! ### Little-endian fields (R169) -/

/-- The unsigned byte at an offset, 0 beyond the end. -/
def u8 (bs : List Byte) (i : Nat) : Nat := (bs.getD i 0).toNat

/-- The unsigned two-byte field at an offset. -/
def u16 (bs : List Byte) (i : Nat) : Nat := u8 bs i + 256 * u8 bs (i + 1)

/-- The unsigned four-byte field at an offset. -/
def u32 (bs : List Byte) (i : Nat) : Nat := u16 bs i + 65536 * u16 bs (i + 2)

/-- The two's complement two-byte field at an offset. -/
def s16 (bs : List Byte) (i : Nat) : Int :=
  let v := u16 bs i
  if v < 32768 then v else (v : Int) - 65536

/-- Bit `b` of the byte at an offset. -/
def bitAt (bs : List Byte) (i b : Nat) : Bool := (bs.getD i 0).getLsbD b

/-- A one-byte field. -/
def put8 (n : Nat) : List Byte := [BitVec.ofNat 8 n]

/-- A two-byte field. -/
def put16 (n : Nat) : List Byte := [BitVec.ofNat 8 n, BitVec.ofNat 8 (n / 256)]

/-- A four-byte field. -/
def put32 (n : Nat) : List Byte := put16 n ++ put16 (n / 65536)

/-- A signed two-byte field. -/
def putS16 (a : Int) : List Byte := put16 (modNat a 65536)

/-- A signed four-byte field. -/
def putS32 (a : Int) : List Byte := put32 (modNat a 4294967296)

/-- A flag, one byte (R169). -/
def putFlag (b : Bool) : List Byte := [if b then 1 else 0]

/-- A field that may be absent: a presence byte, then the field, or `width` bytes of 0 (R169). -/
def putOption {α : Type} (width : Nat) (put : α → List Byte) : Option α → List Byte
  | some a => 1 :: put a
  | none => 0 :: List.replicate width 0

/-- The record `i` of a run of records of `size` bytes each. -/
def recordAt (bs : List Byte) (size i : Nat) : List Byte := (bs.drop (i * size)).take size

/-- The records of a run, in order. -/
def records (bs : List Byte) (size : Nat) : List (List Byte) :=
  (List.range (bs.length / size)).map (recordAt bs size)

/-! ### Values for the eight functions and the seven sections -/

/-- The value for one function. -/
def Eight.get {α : Type} (r : Eight α) : Func → α
  | .slewLeft => r.slewLeft | .slewRight => r.slewRight | .boomUp => r.boomUp | .boomDown => r.boomDown
  | .stickOut => r.stickOut | .stickIn => r.stickIn | .bucketCurl => r.bucketCurl
  | .bucketDump => r.bucketDump

/-- One value on every function. -/
def Eight.all {α : Type} (a : α) : Eight α := ⟨a, a, a, a, a, a, a, a⟩

/-- The values a function of the hydraulic function gives. -/
def Eight.tabulate {α : Type} (f : Func → α) : Eight α :=
  ⟨f .slewLeft, f .slewRight, f .boomUp, f .boomDown, f .stickOut, f .stickIn, f .bucketCurl, f .bucketDump⟩

/-- The values in function order. -/
def Eight.toList {α : Type} (r : Eight α) : List α :=
  [r.slewLeft, r.slewRight, r.boomUp, r.boomDown, r.stickOut, r.stickIn, r.bucketCurl, r.bucketDump]

/-- A set of functions as one byte, SLEW_LEFT in bit 0 (R169). -/
def Eight.toByte (r : Eight Bool) : Nat :=
  (r.toList.zipIdx.map fun p => if p.1 then 2 ^ p.2 else 0).sum

/-- The set of functions in a byte (R169). -/
def Eight.ofByte (n : Nat) : Eight Bool :=
  ⟨n.testBit 0, n.testBit 1, n.testBit 2, n.testBit 3, n.testBit 4, n.testBit 5, n.testBit 6, n.testBit 7⟩

/-- A row that demands nothing (R84). -/
def Row.free : Row := Eight.all 1000

/-- The value for one section. -/
def Seven.get {α : Type} (r : Seven α) : Section → α
  | .geometry => r.geometry | .panels => r.panels | .fences => r.fences | .economy => r.economy
  | .service => r.service | .limits => r.limits | .index => r.index

/-- The record with one section's value replaced. -/
def Seven.set {α : Type} (r : Seven α) (k : Section) (a : α) : Seven α :=
  match k with
  | .geometry => { r with geometry := a } | .panels => { r with panels := a }
  | .fences => { r with fences := a } | .economy => { r with economy := a }
  | .service => { r with service := a } | .limits => { r with limits := a } | .index => { r with index := a }

/-- One value on every section. -/
def Seven.all {α : Type} (a : α) : Seven α := ⟨a, a, a, a, a, a, a⟩

/-- The image of every section's value. -/
def Seven.map {α β : Type} (f : α → β) (r : Seven α) : Seven β :=
  ⟨f r.geometry, f r.panels, f r.fences, f r.economy, f r.service, f r.limits, f r.index⟩

/-- The values in section order. -/
def Seven.toList {α : Type} (r : Seven α) : List α :=
  [r.geometry, r.panels, r.fences, r.economy, r.service, r.limits, r.index]

/-- The value for one power step, 1 to 10, of a list of ten. -/
def atStep {α : Type} (l : List α) (step : Nat) (d : α) : α := l.getD (step - 1) d

/-- Insertion into a list kept in an order. -/
def insertSorted {α : Type} (before : α → α → Bool) (x : α) : List α → List α
  | [] => [x]
  | y :: ys => if before x y then x :: y :: ys else y :: insertSorted before x ys

/-- A list put in an order. -/
def sortBy {α : Type} (before : α → α → Bool) (l : List α) : List α :=
  l.foldl (fun acc x => insertSorted before x acc) []

/-- No two numbers of a list are alike. -/
def distinct (l : List Nat) : Bool := decide l.Nodup

end Sys2Proof.Machine
end

