-- ==== Sys2Proof/Machine/Builtin.lean ====
section
/-! DEFINITION. The built-in values that apply while no plan is active (R21, R34, R52, R58, R98, R160), the
times of the manual, and each block's values after a cold start (R18, R33, R40, R55, R82, R91, R113, R145,
R148, R166, R167). -/

namespace Sys2Proof.Machine

/-! ### Times, ms, and limits -/

/-- Joint tolerance, cd (section 1.3). -/
def jointTolerance : Int := 150
/-- Age at which a joint or the frame is HELD (R5, R7). -/
def heldAge : Nat := 60
/-- Age at which a joint, the frame or the slew is lost (R5, R7, R13). -/
def lostAge : Nat := 250
/-- Speed at which the slew counts as moving, cd/s (R10). -/
def movingSpeed : Int := 200
/-- Roll beyond which TILT holds, cd (R30, R31). -/
def tiltRoll : Nat := 1000
/-- Pilot pressure that sets a pilot flag, bar (R8). -/
def pilotPressure : Nat := 10
/-- Largest pressure, bar (R8). -/
def maxPressure : Nat := 700
/-- Breach tolerance, mm (R58). -/
def breachTolerance : Int := 50
/-- Guard floor cap (R52). -/
def guardFloor : Nat := 150
/-- Period of GRADE_STATUS (R50). -/
def gradePeriod : Nat := 100
/-- Period of ENVELOPE_STATUS (R80). -/
def envelopePeriod : Nat := 200
/-- Period of CAP_SET (R88). -/
def capSetPeriodMs : Nat := 50
/-- Period of STEP_DEMAND (R110). -/
def stepDemandPeriodMs : Nat := 200
/-- Period of ECON_STATUS (R111). -/
def econStatusPeriodMs : Nat := 500
/-- Echo timer (R93). -/
def echoTime : Nat := 200
/-- Longest interval charged for fuel (R112). -/
def fuelInterval : Nat := 500
/-- A hundredth-hour (R117). -/
def hundredthHour : Nat := 36000
/-- A high-pressure minute (R120). -/
def highMinute : Nat := 60000
/-- Request timer (R150). -/
def requestTime : Nat := 60000
/-- Inactivity timer (R150). -/
def inactivityTime : Nat := 20000
/-- Service-awake timer (R176). -/
def awakeTime : Nat := 300000
/-- Runs of recessive bits after which a port rejoins (R166). -/
def rejoinRuns : Nat := 128

/-! ### Built-in plan values -/

/-- Built-in geometry (R21). -/
def builtinGeometry : Geometry := { l1 := 11200, l2 := 5600, l3 := 2900, a0 := 1600, h0 := 3400, t := 900 }

/-- Built-in constants and thresholds (R58, R52, R15, R34, R8). -/
def builtinLimits : Limits :=
  { crawl := 100, margin := 300, decel := 2000, vmax := 2400, defaultBand := 1500, guardBand := 400,
    nominalNrev := 40000, digHeight := 1000, digPressure := 250, dumpAngle := -2000, abandonTime := 10,
    highPressure := 300 }

/-- Built-in step table (R98). -/
def builtinSteps : List StepRow :=
  [⟨1000, 0, 60⟩, ⟨1100, 20, 70⟩, ⟨1200, 30, 80⟩, ⟨1300, 40, 90⟩, ⟨1400, 50, 100⟩, ⟨1500, 58, 110⟩,
   ⟨1600, 66, 120⟩, ⟨1700, 74, 130⟩, ⟨1800, 82, 145⟩, ⟨1900, 90, 160⟩]

/-- Built-in economy settings (R98). -/
def builtinEcon : EconSettings :=
  { steps := builtinSteps, startStep := 5, siteStepCap := 10, idleDelay := 8, floorStep := 3, fenceStep := 5,
    capIdle := 4, capDigging := 10, capLoaded := 10, capDumping := 8, capEmpty := 7, capTravel := 10 }

/-- What the blocks use under NO_PLAN (R160). -/
def builtinInForce : InForce :=
  { geom := builtinGeometry, panels := [], econ := builtinEcon, limits := builtinLimits }

/-! ### Cold-start values -/

/-- A channel after a start (R18). -/
def coldChannel : Channel := { reading := 0, status := .fault, use := .leftOut }

/-- A joint record after a start (R18). -/
def coldJoint : JointRec :=
  { ch1 := coldChannel, ch2 := coldChannel, ch3 := coldChannel, voted := 0, quality := .invalid,
    lastVote := .good, age := 0, invalidStands := false }

/-- The frame record after a start (R18). -/
def coldFrame : FrameRec :=
  { pitch := 0, roll := 0, quality := .invalid, last := .accepted, age := 0, invalidStands := false }

/-- The slew record after a start with this Nrev and this count of session reversals (R18, R19). The angle
is not used while UNINDEXED: 0 is a DESIGN CHOICE (log 4). -/
def coldSlew (nrev reversals : Nat) : SlewRec :=
  { raw := 0, index := 0, nrev := nrev, state := .unindexed, measured := false, angle := 0, speed := 0,
    dir := .still, lastMoving := .none, firstPass := none, encoder := .ok, reversals := reversals, age := 0 }

/-- The pressure record after a start (R18). -/
def coldPress : PressureRec :=
  { pump := 0, travel := 0, implement := 0, travelFlag := false, implementFlag := false, highFlag := false }

/-- The Measurement Unit's records after a start (R18, R19). -/
def coldMeas (nrev reversals : Nat) : Meas :=
  { boom := coldJoint, stick := coldJoint, bucket := coldJoint, frame := coldFrame,
    slew := coldSlew nrev reversals, press := coldPress }

/-- No degrade reasons. -/
def noReasons : Reasons :=
  { jointTwo := false, jointHeld := false, frameHeld := false, tilt := false, saturated := false }

/-- The pose record after a start, a wake or the entry to PARKING (R33). -/
def coldPose : PoseRec :=
  { rf := 0, zf := 0, rs := 0, zs := 0, rk := 0, zk := 0, rt := 0, zt := 0, htop := 0, rmax := 0,
    lowest := 0, bucketAngle := 0, slew := none, plan := none, saturated := false, quality := .invalid,
    reasons := noReasons }

/-- The Cycle Monitor after a start with this total count (R40). -/
def coldCycle (total : Nat) : Cycle := { state := .idle, age := 0, rest := 0, session := 0, total := total }

/-- A benchmark never captured (R42, R55). -/
def coldBench : Benchmark := { state := .none, zb := 0, eb := 0, xb := 0, yb := 0 }

/-- The Grade Guide after a cold start under NO_PLAN (R55). -/
def coldGrade : Grade :=
  { bench := coldBench, guardOn := false,
    guide := { status := .noPlan, tip := none, design := none, cutFill := none, panel := none },
    guard := .off, demand := 1000 }

/-- An EMPTY slot (R57). -/
def emptySlot : FenceSlot :=
  { fence := none, state := .empty, remaining := none, demands := Row.free, alert := none }

/-- The demand table at a start or a wake (R91). -/
def freeTable : DemandTable :=
  { slots := List.replicate Config.fenceSlots Row.free, crawl := Row.free,
    items := List.replicate Config.itemNumbers Row.free, guard := Row.free }

/-- The Cap Merger at a cold start and at a wake (R91). -/
def coldMerger : Merger :=
  { rows := freeTable, caps := Eight.all { value := 1000, limiting := .none }, sending := false,
    lastPlaced := none, lastSent := none, sentBefore := none, check := .noReference,
    mismatched := Eight.all false, echoTimer := 0 }

/-- The engine record at a start or a wake (R113). -/
def coldEngine : EngineRec :=
  { speed := 0, load := 0, fuel := 0, derate := 0, running := false, age := 0, previous := false }

/-- The Economy Unit at a start or a wake with these settings and caps (R113). -/
def coldEcon (startStep operatorCap siteCap : Nat) : Econ :=
  { engine := coldEngine, selection := startStep, manualStep := startStep, mode := .auto, count := 0, sum := 0,
    down := 0, average := none, operatorCap := operatorCap, siteCap := siteCap, cycleCopy := .idle,
    travelCopy := false, stopCopy := false, idle := .active, idleTimer := 0 }

/-- The judgement before the first entry to RUN; the steps are judged there (R113): 1 is a DESIGN CHOICE
(log 6). -/
def coldStep : StepRec :=
  { serviceCap := 10, chosen := 1, limiting := .selection, issued := 1, floorStands := false,
    lastDemand := none }

/-- Every meter and remainder 0 (R132). -/
def zeroMeters : Meters :=
  { acc := List.replicate Config.powerSteps { whole := 0, rem := 0 }, hour := 0, weighted := 0, weightRem := 0,
    litres := 0, millilitres := 0, fuelRem := 0, highMinutes := 0, highRem := 0, reversals := 0,
    digCycles := 0 }

/-- The usage of a new item (R129). -/
def newUsage : Usage :=
  { used := 0, state := .ok, deferredUntil := none, deferredFlag := false, signOffs := 0, hourAt := 0 }

/-- The charging state at every start (R132). -/
def coldCharging : Charging := { step := 1, running := false, high := false }

/-- The Alert List at a cold start and at a wake (R145); the raise sequence runs on (DESIGN CHOICE, log 7). -/
def emptyAlerts (nextSeq : Nat) : Alerts :=
  { entries := [], mask := 0, notListed := false, nextSeq := nextSeq, lastOffer := none }

/-- A region of a discarded staging area (R148). -/
def emptyRegion : Region := { received := false, length := 0, sum := 0, bytes := [] }

/-- The Plan Store after a start that restores no plan, its start request aside (R150, R159). -/
def coldPlanStore : PlanStore :=
  { active := none, staging := Seven.all emptyRegion, xfer := .idle, receiving := .geometry, declared := 0,
    expected := 0, requestTimer := 0, inactTimer := 0, image := .absent, startPending := false }

/-- A port after a start or a wake (R165, R166). -/
def coldPort : PortRec := { bus := .onBus, errors := 0, recovery := 0, busOffs := 0, list := [] }

/-- Both ports after a start or a wake. -/
def coldPorts : Ports := { implement := coldPort, powertrain := coldPort }

/-- A link after a start or a wake (R167). -/
def coldLink : LinkRec := { state := .offline, silence := 0, offlineStands := false }

/-- The link records after a start or a wake (R167). -/
def coldLinks : Links :=
  { engine := coldLink, cab := coldLink, valve := coldLink, gateway := coldLink, sensor := coldLink }

/-- No read in progress (R168). -/
def noReads : Reads := { cab := none, gateway := none }

/-- The Retained Store controller with nothing restored and nothing in flight (R172). -/
def coldCtrl : Ctrl :=
  { current := 0, writing := none, pendingCkpt := false, parkingCkpt := false, accountsLost := false,
    awakeTimer := 0, imageWrite := .none }

/-- Periods not yet run. -/
def zeroPeriods : Periods := { grade := 0, envelope := 0, capSet := 0, step := 0, econ := 0 }

/-- An account slot never written (DESIGN CHOICE, log 3). -/
def blankSlot : AccountSlot :=
  { seq := 0, image := { meters := zeroMeters, nrev := 0, items := [] }, sum := none }

/-- A store chip never written (DESIGN CHOICE, log 3). -/
def blankChip : Chip := { slotA := blankSlot, slotB := blankSlot, image := none }

/-- The ENVELOPE_CRAWL demand with an invalid slew angle and no plan active, built-in crawl cap (R68). -/
def coldCrawl : Row :=
  { Row.free with slewLeft := 100, slewRight := 100, boomUp := 100 }

/-- The fence table with every slot EMPTY (R82 with no plan restored). -/
def coldEnv : Env :=
  { slots := List.replicate Config.fenceSlots emptySlot, crawl := coldCrawl, unindexed := false }

end Sys2Proof.Machine
end

