-- ==== Sys2Proof/Machine/State.lean ====
section
/-! DEFINITION. The state of the part, block by block, the queue of waiting commands, and the state after
reset. The reasons a step could stop are closed and, for this part, without a use: the manual gives every
event an effect. -/

namespace Sys2Proof.Machine

/-- Faults. The manual names no event that stops the part: a refused request is answered and recorded
(R163, R164), an event that does not happen changes nothing, and every value the part computes is defined.
Nobody raises a fault, so the type has no constructor; this is safe, since no behaviour is cut off. -/
inductive Fault where
  deriving DecidableEq, Repr

/-- Refusals of the model. -/
inductive Refusal where
  /-- Raised by `exec` alone, for a command whose meaning is not written yet; safe: the run stops. No arm of
  `exec` uses it. -/
  | notModelled (mnemonic : String)
  deriving DecidableEq, Repr

/-- The whole state. In OFF the part holds nothing but what the store chip holds (R171): the other fields
then stand at their cold-start values. -/
structure State where
  power   : Power
  pins    : Pins
  chip    : Chip
  ctrl    : Ctrl
  plan    : PlanStore
  inForce : InForce
  meas    : Meas
  pose    : PoseUnit
  cycle   : Cycle
  grade   : Grade
  env     : Env
  caps    : Merger
  econ    : Econ
  step    : StepRec
  charge  : Charging
  svc     : Service
  alerts  : Alerts
  periods : Periods
  ports   : Ports
  links   : Links
  fault   : Option FaultRec
  reads   : Reads
  /-- The model's own: how many free values of `Config.ownerOrder` have been taken. Each event whose alerts
  come from several owners takes the next one as the order they reach the list, which R138 leaves open
  (log 8). -/
  orders  : Nat
  /-- The commands waiting, first in, first out. -/
  pending : List Instr
  deriving DecidableEq, Repr

/-- The part in OFF: its chip, its lines, and cold-start values everywhere else (R171). -/
def State.offWith (chip : Chip) (pins : Pins) (orders : Nat) (pending : List Instr) : State :=
  { power := .off, pins := pins, chip := chip, ctrl := coldCtrl, plan := coldPlanStore,
    inForce := builtinInForce, meas := coldMeas builtinLimits.nominalNrev 0,
    pose := { record := coldPose, tilt := false }, cycle := coldCycle 0, grade := coldGrade, env := coldEnv,
    caps := coldMerger, econ := coldEcon builtinEcon.startStep 10 builtinEcon.siteStepCap, step := coldStep,
    charge := coldCharging, svc := { meters := zeroMeters, items := [], held := none },
    alerts := emptyAlerts 1, periods := zeroPeriods, ports := coldPorts, links := coldLinks, fault := none,
    reads := noReads, orders := orders, pending := pending }

/-- The machine at reset: OFF with the reset line asserted, the supply present and the key off, and a store
chip never written. COLD_START and STARTING_READ_COMPLETE take it from there (R171, R172; DESIGN CHOICE, log 2). -/
def State.reset : State :=
  State.offWith blankChip { keyOn := false, supply := true, resetReleased := false } 0 []

end Sys2Proof.Machine
end

