-- ==== Sys2Proof/Machine/Flags.lean ====
section
/-! DEFINITION. Every flag, signal and derived value that the rules define from the state: standing alerts,
the envelope's signals (R70), the service cap and the item rows (R127), the effective running flag (R97),
alert classes and priorities (R146), and the accessors by joint, party, port and slot. -/

namespace Sys2Proof.Machine

/-! ### Accessors -/

/-- The record of a joint. -/
def Meas.joint (m : Meas) : Joint → JointRec
  | .boom => m.boom | .stick => m.stick | .bucket => m.bucket

/-- The records with one joint's replaced. -/
def Meas.setJoint (m : Meas) (j : Joint) (r : JointRec) : Meas :=
  match j with
  | .boom => { m with boom := r } | .stick => { m with stick := r } | .bucket => { m with bucket := r }

/-- The record of a link (R167). -/
def Links.get (l : Links) : Party → LinkRec
  | .engine => l.engine | .cab => l.cab | .valve => l.valve | .gateway => l.gateway | .sensor => l.sensor

/-- The link records with one replaced. -/
def Links.set (l : Links) (p : Party) (r : LinkRec) : Links :=
  match p with
  | .engine => { l with engine := r } | .cab => { l with cab := r } | .valve => { l with valve := r }
  | .gateway => { l with gateway := r } | .sensor => { l with sensor := r }

/-- The record of a port (R166). -/
def Ports.get (p : Ports) : Port → PortRec
  | .implement => p.implement | .powertrain => p.powertrain

/-- The port records with one replaced. -/
def Ports.set (p : Ports) (q : Port) (r : PortRec) : Ports :=
  match q with
  | .implement => { p with implement := r } | .powertrain => { p with powertrain := r }

/-- The read in progress of a reader (R168). -/
def Reads.get (r : Reads) : Reader → Option ReadProg
  | .cab => r.cab | .gateway => r.gateway

/-- The reads in progress with one replaced. -/
def Reads.set (r : Reads) (q : Reader) (p : Option ReadProg) : Reads :=
  match q with
  | .cab => { r with cab := p } | .gateway => { r with gateway := p }

/-- The party a reader is. -/
def Reader.party : Reader → Party
  | .cab => .cab | .gateway => .gateway

/-- The reader a node is, or none (R168). -/
def Reader.ofNode (n : Byte) : Option Reader :=
  if n = Party.node .cab then some .cab else if n = Party.node .gateway then some .gateway else none

/-- An account slot of the chip. -/
def Chip.slot (c : Chip) : SlotId → AccountSlot
  | .a => c.slotA | .b => c.slotB

/-- The chip with one account slot replaced. -/
def Chip.setSlot (c : Chip) (k : SlotId) (r : AccountSlot) : Chip :=
  match k with
  | .a => { c with slotA := r } | .b => { c with slotB := r }

/-! ### Measurement -/

/-- The slew angle while it is valid (R13). -/
def SlewRec.validAngle (r : SlewRec) : Option Nat :=
  if r.state = .unindexed then none else some r.angle

/-- JOINT_SPREAD stands (R6). -/
def JointRec.spreadStands (r : JointRec) : Bool := r.lastVote == .two && r.quality != .invalid

/-- The condition of JOINT_INVALID (R6). -/
def JointRec.invalidHolds (r : JointRec) : Bool :=
  r.quality == .invalid && (r.lastVote == .invalid || decide (lostAge ≤ r.age))

/-- The condition of FRAME_INVALID (R7). -/
def FrameRec.invalidHolds (r : FrameRec) : Bool :=
  r.quality == .invalid && (r.last == .rejected || decide (lostAge ≤ r.age))

/-- Either pilot flag is set (R108). -/
def PressureRec.anyPilot (p : PressureRec) : Bool := p.travelFlag || p.implementFlag

/-! ### Envelope -/

/-- A sector-acting fence (R16, R70). -/
def FenceGeom.sectorActing (g : FenceGeom) : Bool :=
  g.kind == .sector || decide (0 < sectorWidth g.start g.stop)

/-- Stop in force: some fence is HELD or BREACHED (R70). -/
def stopInForce (slots : List FenceSlot) : Bool :=
  slots.any fun c => c.state == .held || c.state == .breached

/-- Sector fence near: some sector-acting fence is in APPROACH, HELD or BREACHED (R70). -/
def sectorNear (slots : List FenceSlot) : Bool :=
  slots.any fun c =>
    (match c.fence with | some f => f.eff.sectorActing | none => false) &&
      (c.state == .approach || c.state == .held || c.state == .breached)

/-- FENCES_UNVERIFIED stands: some occupied slot has its verified flag clear (R78). -/
def unverified (slots : List FenceSlot) : Bool :=
  slots.any fun c => match c.fence with | some f => !f.verified | none => false

/-- The alert a fence state calls for (R71). -/
def FenceState.alert : FenceState → Option FenceAlert
  | .approach => some .approach | .held => some .held | .breached => some .breached
  | .indeterminate => some .indeterminate | .clear => none | .empty => none

/-- The alert code of a fence alert. -/
def FenceAlert.code : FenceAlert → AlertCode
  | .approach => .fenceApproach | .held => .fenceHeld | .breached => .fenceBreached
  | .indeterminate => .fenceIndeterminate

/-- Severity of a fence state, 0 for EMPTY and CLEAR (R80). -/
def FenceState.severity : FenceState → Nat
  | .breached => 4 | .indeterminate => 3 | .held => 2 | .approach => 1 | .clear => 0 | .empty => 0

/-- The most severe slot: the lowest number among the most severe, 0 when every slot is EMPTY or CLEAR
(R80). -/
def mostSevere (slots : List FenceSlot) : Nat :=
  (slots.zipIdx.foldl
    (fun (best : Nat × Nat) c => if best.1 < c.1.state.severity then (c.1.state.severity, c.2 + 1) else best)
    (0, 0)).2

/-! ### Service -/

/-- The alert an item state calls for (R126). -/
def ItemState.alert : ItemState → Option ItemAlert
  | .dueSoon => some .dueSoon | .due => some .due | .overdue => some .overdue
  | .ok => none | .deferred => none

/-- The alert code of a service alert. -/
def ItemAlert.code : ItemAlert → AlertCode
  | .dueSoon => .serviceDueSoon | .due => .serviceDue | .overdue => .serviceOverdue

/-- The item with a number. -/
def findItem (items : List Item) (n : Nat) : Option Item := items.find? fun i => i.defn.number == n

/-- The row an item demands (R127). -/
def Item.row (i : Item) : Row :=
  match i.usage.state, i.defn.funcDerate with
  | .overdue, some (fs, cap) => Eight.tabulate fun f => if fs.get f then cap else 1000
  | _, _ => Row.free

/-- The row of an item number (R127). -/
def itemRow (items : List Item) (n : Nat) : Row :=
  match findItem items n with
  | some i => i.row
  | none => Row.free

/-- The rows of item numbers 1 to 24. -/
def itemRows (items : List Item) : List Row :=
  (List.range Config.itemNumbers).map fun k => itemRow items (k + 1)

/-- The service cap: the least step derate among OVERDUE items that carry one, or 10 (R127). -/
def serviceCap (items : List Item) : Nat :=
  items.foldl
    (fun acc i =>
      match i.usage.state, i.defn.stepDerate with
      | .overdue, some k => min acc k
      | _, _ => acc) 10

/-- Number and state of every item, in order. -/
def itemStates (items : List Item) : List (Nat × ItemState) :=
  items.map fun i => (i.defn.number, i.usage.state)

/-! ### Economy -/

/-- The effective running flag (R97). -/
def State.effectiveRunning (s : State) : Bool :=
  s.power == .run && s.links.engine.state != .offline && s.econ.engine.running

/-- The phase cap (R105). -/
def phaseCap (e : EconSettings) (travel : Bool) (c : CycleState) : Nat :=
  if travel then e.capTravel
  else match c with
    | .idle => e.capIdle | .digging => e.capDigging | .swingLoaded => e.capLoaded
    | .dumping => e.capDumping | .swingEmpty => e.capEmpty

/-- The fence cap (R105). -/
def fenceCap (e : EconSettings) (stop : Bool) : Nat := if stop then e.fenceStep else 10

/-- The row of a step in a step table (R98). -/
def stepRow (e : EconSettings) (step : Nat) : StepRow := atStep e.steps step { rpm := 0, threshold := 0, weight := 0 }

/-- The state's phase cap. -/
def State.phaseCap (s : State) : Nat := Machine.phaseCap s.inForce.econ s.econ.travelCopy s.econ.cycleCopy

/-- The state's fence cap. -/
def State.fenceCap (s : State) : Nat := Machine.fenceCap s.inForce.econ s.econ.stopCopy

/-- The target speed of the issued step in the table in force (R110). -/
def State.targetRpm (s : State) : Nat := (stepRow s.inForce.econ s.step.issued).rpm

/-! ### Alerts (R146) -/

/-- Class of a code (R146). -/
def AlertCode.cls : AlertCode → AlertClass
  | .slewCalFailed | .planTransferFailed | .planCommitted => .event
  | _ => .condition

/-- Priority of LINK_SILENT by its subject (R146). -/
def silentPriority : Party → Nat
  | .valve => 5 | .sensor => 4 | .engine => 3 | .cab => 2 | .gateway => 2

/-- Priority of LINK_OFFLINE by its subject (R146). -/
def offlinePriority : Party → Nat
  | .valve => 7 | .sensor => 6 | .engine => 5 | .cab => 4 | .gateway => 3

/-- Priority of a raise by code and subject (R146). PLAN_TRANSFER_FAILED is given here its priority for an
abandoned transfer; its other cause raises it at 3. -/
def alertPriority (c : AlertCode) (subj : Subject) : Nat :=
  match c with
  | .jointSpread => 3 | .jointInvalid => 6 | .frameInvalid => 6 | .slewEncoderFault => 6
  | .slewCalFailed => 2 | .tilt => 4 | .guardSuspended => 3 | .fenceApproach => 3 | .fenceHeld => 5
  | .fenceIndeterminate => 6 | .fenceBreached => 7 | .slewUnindexed => 4 | .fencesUnverified => 4
  | .valveEchoMismatch => 7 | .engineDerateFloor => 3 | .serviceDueSoon => 2 | .serviceDue => 4
  | .serviceOverdue => 6 | .planNone => 5 | .planTransferFailed => 4 | .planCommitted => 1
  | .linkSilent => match subj with | .party p => silentPriority p | _ => 2
  | .linkOffline => match subj with | .party p => offlinePriority p | _ => 3
  | .portBusOff => match subj with | .port .implement => 7 | _ => 6
  | .storeAccountsLost => 6

/-- The highest priority in the in-service set, 0 when it is empty (R140). -/
def Alerts.topPriority (a : Alerts) : Nat :=
  a.entries.foldl (fun acc e => if e.inService then max acc e.priority else acc) 0

/-- The ceiling (R140). -/
def Alerts.ceiling (a : Alerts) : Nat := max a.mask a.topPriority

/-- The offered entry (R140). -/
def Alerts.offered (a : Alerts) : Option AlertEntry :=
  a.entries.find? fun e => !e.acked && !e.inService && decide (a.ceiling < e.priority)

/-- The entry in service with the highest priority (R142, R143). -/
def Alerts.top (a : Alerts) : Option AlertEntry :=
  a.entries.find? fun e => e.inService && e.priority == a.topPriority

/-! ### Plan and power -/

/-- Whether a plan is active (R147). -/
def State.planActive (s : State) : Bool := s.plan.active.isSome

/-- The power states in which frames are judged (R162). -/
def Power.listening : Power → Bool
  | .run | .parking | .serviceAwake => true
  | .off | .starting | .parked => false

/-- The power states in which the ports stand on their buses: all but OFF and STARTING (R171, R172). R166
names no power state, and R176 has the blocks hold their state in PARKED: the ports go on there (DESIGN
CHOICE, log 35). -/
def Power.joined : Power → Bool
  | .run | .parking | .parked | .serviceAwake => true
  | .off | .starting => false

/-- RUN or SERVICE_AWAKE, where transfers and sign-offs are taken (R125, R150, R164). -/
def Power.awake : Power → Bool
  | .run | .serviceAwake => true
  | _ => false

end Sys2Proof.Machine
end

