-- ==== Sys2Proof/Machine/Messages.lean ====
section
/-! DEFINITION. The codes of enumerations and the layouts of the messages the part sends (R169), each from
the state as it stands at the placing. -/

namespace Sys2Proof.Machine

/-! ### Codes: from 0 in the order of the defining rule (R169) -/

def Joint.code : Joint → Nat | .boom => 0 | .stick => 1 | .bucket => 2
def Port.code : Port → Nat | .implement => 0 | .powertrain => 1
def Status.code : Status → Nat | .ok => 0 | .fault => 1
def Use.code : Use → Nat | .used => 0 | .leftOut => 1
def JointQuality.code : JointQuality → Nat | .good => 0 | .two => 1 | .held => 2 | .invalid => 3
def Vote.code : Vote → Nat | .good => 0 | .two => 1 | .invalid => 2
def FrameQuality.code : FrameQuality → Nat | .good => 0 | .held => 1 | .invalid => 2
def LastFrame.code : LastFrame → Nat | .accepted => 0 | .rejected => 1
def IndexState.code : IndexState → Nat | .unindexed => 0 | .indexed => 1 | .calibrated => 2
def SlewDir.code : SlewDir → Nat | .still => 0 | .left => 1 | .right => 2
def Moving.code : Moving → Nat | .none => 0 | .left => 1 | .right => 2
def Turn.code : Turn → Nat | .left => 0 | .right => 1
def PoseQuality.code : PoseQuality → Nat | .invalid => 0 | .degraded => 1 | .good => 2
def CycleState.code : CycleState → Nat
  | .idle => 0 | .digging => 1 | .swingLoaded => 2 | .dumping => 3 | .swingEmpty => 4
def BenchState.code : BenchState → Nat | .none => 0 | .current => 1 | .stale => 2
def GuideStatus.code : GuideStatus → Nat
  | .noPlan => 0 | .poseInvalid => 1 | .noBenchmark => 2 | .staleBenchmark => 3 | .noPanel => 4
  | .lowConfidence => 5 | .valid => 6
def GuardState.code : GuardState → Nat | .off => 0 | .active => 1 | .suspended => 2
def FenceKind.code : FenceKind → Nat | .sector => 0 | .ceiling => 1 | .floor => 2 | .reach => 3
def FenceState.code : FenceState → Nat
  | .empty => 0 | .clear => 1 | .approach => 2 | .held => 3 | .breached => 4 | .indeterminate => 5
def DistUnit.code : DistUnit → Nat | .mm => 0 | .cd => 1
def Contributor.code : Contributor → Nat
  | .fence _ => 0 | .envelopeCrawl => 1 | .service _ => 2 | .gradeGuard => 3 | .none => 4
def Contributor.number : Contributor → Nat
  | .fence n => n | .service n => n | .envelopeCrawl => 0 | .gradeGuard => 0 | .none => 0
def EchoState.code : EchoState → Nat | .noReference => 0 | .agreed => 1 | .disagreeing => 2 | .mismatched => 3
def EconMode.code : EconMode → Nat | .auto => 0 | .manual => 1
def IdleState.code : IdleState → Nat | .active => 0 | .idling => 1
def Limiting.code : Limiting → Nat
  | .selection => 0 | .fence => 1 | .service => 2 | .phase => 3 | .site => 4 | .operator => 5
def Basis.code : Basis → Nat
  | .engineHours => 0 | .weightedHours => 1 | .slewReversals => 2 | .digCycles => 3 | .highPressureMin => 4
  | .fuelL => 5
def ItemState.code : ItemState → Nat | .ok => 0 | .dueSoon => 1 | .due => 2 | .deferred => 3 | .overdue => 4
def AlertCode.code : AlertCode → Nat
  | .jointSpread => 0 | .jointInvalid => 1 | .frameInvalid => 2 | .slewEncoderFault => 3
  | .slewCalFailed => 4 | .tilt => 5 | .guardSuspended => 6 | .fenceApproach => 7 | .fenceHeld => 8
  | .fenceIndeterminate => 9 | .fenceBreached => 10 | .slewUnindexed => 11 | .fencesUnverified => 12
  | .valveEchoMismatch => 13 | .engineDerateFloor => 14 | .serviceDueSoon => 15 | .serviceDue => 16
  | .serviceOverdue => 17 | .planNone => 18 | .planTransferFailed => 19 | .planCommitted => 20
  | .linkSilent => 21 | .linkOffline => 22 | .portBusOff => 23 | .storeAccountsLost => 24
def AlertClass.code : AlertClass → Nat | .condition => 0 | .event => 1
def Section.code : Section → Nat
  | .geometry => 0 | .panels => 1 | .fences => 2 | .economy => 3 | .service => 4 | .limits => 5 | .index => 6
def XferState.code : XferState → Nat | .idle => 0 | .requested => 1 | .opened => 2 | .receiving => 3
def ImageState.code : ImageState → Nat | .valid => 0 | .storing => 1 | .absent => 2
def BusState.code : BusState → Nat | .onBus => 0 | .busOff => 1
def LinkState.code : LinkState → Nat | .online => 0 | .silent => 1 | .offline => 2
def Result.code : Result → Nat
  | .done => 0 | .clamped => 1 | .refusedPermission => 2 | .refusedState => 3 | .refusedRange => 4
  | .refusedLoosen => 5 | .noSuchItem => 6
def Power.code : Power → Nat
  | .off => 0 | .starting => 1 | .run => 2 | .parking => 3 | .parked => 4 | .serviceAwake => 5
def SlotId.code : SlotId → Nat | .a => 0 | .b => 1

/-- An alert subject, one byte (R169). -/
def Subject.byte : Subject → Nat
  | .none => 0 | .slot n => n | .item n => n | .joint j => Joint.code j
  | .party p => (Party.node p).toNat | .port p => Port.code p

/-- Outcomes of XFER_SUM (R153, R154), coded as R169 lists them. -/
inductive SumOutcome where
  | received | short | badOffset | overrun
  deriving DecidableEq, Repr

def SumOutcome.code : SumOutcome → Nat | .received => 0 | .short => 1 | .badOffset => 2 | .overrun => 3

/-- Reasons of a failed commit (R156), coded as R169 lists them. -/
inductive CommitReason where
  | missing | length | checksum | range
  deriving DecidableEq, Repr

def CommitReason.code : CommitReason → Nat | .missing => 0 | .length => 1 | .checksum => 2 | .range => 3

/-- Reasons of PLAN_WANTED (R151). -/
inductive WantReason where
  | operator | start
  deriving DecidableEq, Repr

def WantReason.code : WantReason → Nat | .operator => 0 | .start => 1

/-! ### Plan identity (R147, R170) -/

/-- Plan number of a plan, from its INDEX. -/
def ActivePlan.number (p : ActivePlan) : Nat := u32 p.bytes.index 0

/-- Revision of a plan, from its INDEX. -/
def ActivePlan.revision (p : ActivePlan) : Nat := u16 p.bytes.index 4

/-- Plan number and revision of the active plan, 0 under NO_PLAN. R169 fills an absent identity with 0
behind its presence byte, as in PLAN_WANTED; XFER_RESULT has no such byte and no value under NO_PLAN, and
the 0 there is a DESIGN CHOICE (log 10). -/
def identityBytes (p : Option ActivePlan) : List Byte :=
  match p with
  | some a => put32 a.number ++ put16 a.revision
  | none => List.replicate 6 0

/-! ### Cap Merger (R87) -/

/-- The eight quantised caps (R87). -/
def quantised (caps : Eight CapRec) : Eight Nat := Eight.tabulate fun f => (caps.get f).value / 4

/-- CAP_SET: quantised caps, then limiting kinds, in function order. -/
def capSetData (caps : Eight CapRec) : List Byte :=
  ((quantised caps).toList.map fun n => BitVec.ofNat 8 n) ++
    (caps.toList.map fun c => BitVec.ofNat 8 c.limiting.code)

/-! ### Status messages -/

/-- STEP_DEMAND (R110). -/
def stepDemandData (step rpm : Nat) : List Byte := put8 step ++ put16 rpm

/-- GRADE_STATUS (R50). -/
def gradeStatusData (g : Grade) : List Byte :=
  put8 g.guide.status.code ++
  put8 ((if g.guide.tip.isSome then 1 else 0) + (if g.guide.design.isSome then 2 else 0)) ++
  putS16 (g.guide.tip.getD 0) ++ putS16 (g.guide.design.getD 0) ++ putS16 (g.guide.cutFill.getD 0) ++
  put8 (g.guide.panel.getD 0) ++ put8 g.bench.state.code ++ put8 g.guard.code ++ put16 g.demand

/-- The fence state of a slot, 1 to 16. -/
def slotState (slots : List FenceSlot) (n : Nat) : FenceState := (slots.getD (n - 1) emptySlot).state

/-- ENVELOPE_STATUS (R80). -/
def envelopeStatusData (s : State) : List Byte :=
  ((List.range 8).map fun k =>
    BitVec.ofNat 8 ((slotState s.env.slots (2 * k + 1)).code + 16 * (slotState s.env.slots (2 * k + 2)).code)) ++
  put8 (mostSevere s.env.slots) ++
  put8 ((if s.meas.slew.validAngle.isNone then 1 else 0) + (if s.planActive then 0 else 2) +
    (if stopInForce s.env.slots then 4 else 0) + (if unverified s.env.slots then 8 else 0))

/-- ECON_STATUS with this window count (R111). -/
def econStatusWith (s : State) (count : Nat) : List Byte :=
  put8 s.econ.mode.code ++ put8 s.econ.manualStep ++ put8 s.econ.selection ++ put8 s.econ.down ++
  put8 (s.econ.average.getD 255) ++ put8 count ++
  put8 s.econ.operatorCap ++ put8 s.econ.siteCap ++ put8 s.step.serviceCap ++ put8 s.phaseCap ++
  put8 s.fenceCap ++ put8 s.step.chosen ++ put8 s.step.limiting.code ++ put8 s.econ.engine.derate ++
  put8 s.step.issued ++ put16 s.targetRpm ++ put8 s.econ.idle.code ++ put8 s.links.engine.state.code ++
  put8 ((if s.effectiveRunning then 1 else 0) + (if s.step.floorStands then 2 else 0))

/-- ECON_STATUS (R111). -/
def econStatusData (s : State) : List Byte := econStatusWith s s.econ.count

/-- How many items stand in a state. -/
def countItems (items : List Item) (st : ItemState) : Nat :=
  (items.filter fun i => i.usage.state == st).length

/-- The lowest-numbered item in a state: items are held in ascending number. -/
def firstIn (items : List Item) (st : ItemState) : Option Item := items.find? fun i => i.usage.state == st

/-- The most urgent item: OVERDUE, DEFERRED, DUE, DUE_SOON, lowest number first (R128). -/
def mostUrgent (items : List Item) : Option Item :=
  ((firstIn items .overdue).orElse fun _ => (firstIn items .deferred).orElse fun _ =>
    (firstIn items .due).orElse fun _ => firstIn items .dueSoon)

/-- SERVICE_STATUS (R128). -/
def serviceStatusData (v : Service) : List Byte :=
  put8 v.items.length ++ put8 (countItems v.items .ok) ++ put8 (countItems v.items .dueSoon) ++
  put8 (countItems v.items .due) ++ put8 (countItems v.items .deferred) ++
  put8 (countItems v.items .overdue) ++
  (match mostUrgent v.items with
   | some i => put8 i.defn.number ++ put16 i.defn.label ++ put8 i.usage.state.code
   | none => put8 0 ++ put16 0 ++ put8 0) ++
  put8 (serviceCap v.items) ++ put32 v.meters.hour ++ put32 v.meters.weighted

/-- ALERT_OFFER (R142). -/
def alertOfferData (a : Alerts) : List Byte :=
  put8 ((if a.offered.isSome then 1 else 0) +
    (match a.offered with | some e => if e.code.cls = .event then 2 else 0 | none => 0) +
    (match a.top with | some e => 4 + (if e.resolved then 8 else 0) | none => 0) +
    (if a.notListed then 16 else 0)) ++
  (match a.offered with
   | some e => put8 e.code.code ++ put8 e.subject.byte ++ put8 e.priority ++ put8 e.repeats ++ put32 e.hourAt
   | none => List.replicate 8 0) ++
  (match a.top with
   | some e => put8 e.code.code ++ put8 e.subject.byte ++ put8 e.priority
   | none => List.replicate 3 0) ++
  put8 a.entries.length ++ put8 (a.entries.filter fun e => e.inService).length ++ put8 a.mask

/-- What an ALERT_OFFER placed now would carry, as far as R142 compares it. -/
def offerKey (a : Alerts) : OfferKey :=
  { offered := a.offered.map fun e => (e.code, e.subject, e.priority, e.repeats)
    top := a.top.map fun e => (e.code, e.subject, e.resolved) }

/-! ### Answers and transfer messages -/

/-- REQ_RESULT (R163). -/
def reqResultData (k : RxKind) (r : Result) (detail : Nat) : List Byte :=
  put16 k.number.toNat ++ put8 r.code ++ put32 detail

/-- The number of pages of a snapshot (R168). -/
def pageCount (n : Nat) : Nat := max 1 ((n + 7) / 8)

/-- READ_DATA with one page (R168). -/
def readDataPage (r : ReadProg) : List Byte :=
  [r.selector, r.index] ++
  put8 (r.page + (if r.page + 1 = pageCount r.bytes.length then 128 else 0)) ++
  (r.bytes.drop (8 * r.page)).take 8

/-- PLAN_WANTED (R151). -/
def planWantedData (why : WantReason) (p : Option ActivePlan) : List Byte :=
  put8 why.code ++ putFlag p.isSome ++ identityBytes p

/-- XFER_READY (R152). -/
def xferReadyData (k : Section) (len : Nat) : List Byte := put8 k.code ++ put16 len

/-- XFER_SUM (R153, R154). -/
def xferSumData (k : Section) (len : Nat) (sum : BitVec 16) (o : SumOutcome) : List Byte :=
  put8 k.code ++ put16 len ++ put16 sum.toNat ++ put8 o.code

/-- XFER_RESULT of a successful commit (R157); section and reason are filled with 0 (DESIGN CHOICE, log 10). -/
def xferDoneData (p : Option ActivePlan) : List Byte := put8 0 ++ put8 0 ++ put8 0 ++ identityBytes p

/-- XFER_RESULT of a failed commit, with the identity of the plan still active (R158), filled with 0 under
NO_PLAN (DESIGN CHOICE, log 10). -/
def xferFailedData (k : Section) (why : CommitReason) (p : Option ActivePlan) : List Byte :=
  put8 1 ++ put8 k.code ++ put8 why.code ++ identityBytes p

end Sys2Proof.Machine
end

