-- ==== Sys2Proof/Machine/AccountLayout.lean ====
section
/-! DEFINITION. The account image as bytes (R131), and the checksum and validity of an account slot (R149,
R172). The manual gives the image's parts and no layout: its bytes are the parts in the order of R131, each
as R169 encodes a field (DESIGN CHOICE, log 3). -/

namespace Sys2Proof.Machine

/-- The meters of R116. -/
def meterBytes (m : Meters) : List Byte :=
  (m.acc.map fun a => put32 a.whole ++ put16 a.rem).flatten ++ put32 m.hour ++ put32 m.weighted ++
  put8 m.weightRem ++ put32 m.litres ++ put16 m.millilitres ++ put16 m.fuelRem ++ put32 m.highMinutes ++
  put16 m.highRem ++ put32 m.reversals ++ put32 m.digCycles

/-- A usage part (R122). -/
def usageBytes (u : Usage) : List Byte :=
  put32 u.used ++ put8 u.state.code ++ putOption 4 put32 u.deferredUntil ++ putFlag u.deferredFlag ++
  put16 u.signOffs ++ put32 u.hourAt

/-- The item part of the account image for one item number: absent 0, lost 1, or 2 with basis and usage
(R131). -/
def entryBytes : Option UsageEntry → List Byte
  | none => put8 0
  | some x =>
    match x.content with
    | none => put8 1
    | some (b, u) => put8 2 ++ put8 b.code ++ usageBytes u

/-- The account image (R131). -/
def AccountImage.toBytes (a : AccountImage) : List Byte :=
  meterBytes a.meters ++ put16 a.nrev ++
  ((List.range Config.itemNumbers).map fun k => entryBytes (a.items.find? fun x => x.number == k + 1)).flatten

/-- The checksum over a sequence number and an account image (R149, R172). -/
def accountSum (seq : Nat) (a : AccountImage) : BitVec 16 := checksum (put32 seq ++ a.toBytes)

/-- A slot is valid when its checksum is the one stored with it (R172). -/
def AccountSlot.valid (k : AccountSlot) : Bool :=
  match k.sum with
  | some c => c == accountSum k.seq k.image
  | none => false

/-- A slot marked invalid, as a checkpoint's write begins (R173). It keeps the sequence number and the image it
last held until a write completes, and after one that failed or was cut short (DESIGN CHOICE, log 3). -/
def AccountSlot.marked (k : AccountSlot) : AccountSlot := { k with sum := none }

/-- A slot as a completed write leaves it, its checksum written last (R173). -/
def writtenSlot (seq : Nat) (a : AccountImage) : AccountSlot :=
  { seq := seq, image := a, sum := some (accountSum seq a) }

end Sys2Proof.Machine
end

