-- ==== Sys2Proof/Machine/AlertList.lean ====
section
/-! DEFINITION. The Alert List: raising (R135 to R137), withdrawing (R139), and the order in which the raises
and withdrawals of one event are taken (R138). -/

namespace Sys2Proof.Machine

/-- The blocks that raise and withdraw alerts (R146). -/
inductive Owner where
  | measurement | pose | grade | envelope | caps | economy | service | plan | link | store
  deriving DecidableEq, Repr

/-- A raise or a withdrawal handed to the Alert List. -/
inductive AlertOp where
  | raise (code : AlertCode) (subject : Subject) (priority : Nat)
  | withdraw (code : AlertCode) (subject : Subject)
  deriving DecidableEq, Repr

/-- A raise at the priority of R146. -/
def raiseOp (c : AlertCode) (subj : Subject) : AlertOp := .raise c subj (alertPriority c subj)

/-- List order: higher priority first, then the lower raise sequence (R134). -/
def AlertEntry.before (a b : AlertEntry) : Bool :=
  decide (b.priority < a.priority) || (a.priority == b.priority && decide (a.seq < b.seq))

/-- Whether an entry has this code and subject. -/
def AlertEntry.is (e : AlertEntry) (c : AlertCode) (subj : Subject) : Bool :=
  e.code == c && e.subject == subj

/-- The entry with a code and subject. -/
def Alerts.find (a : Alerts) (c : AlertCode) (subj : Subject) : Option AlertEntry :=
  a.entries.find? fun e => e.is c subj

/-- The entries without those of a code and subject. -/
def dropEntry (l : List AlertEntry) (c : AlertCode) (subj : Subject) : List AlertEntry :=
  l.filter fun e => !e.is c subj

/-- Another entry than this one is in service at this priority (R136). -/
def otherAtPriority (l : List AlertEntry) (e : AlertEntry) (priority : Nat) : Bool :=
  l.any fun o => o.inService && o.priority == priority && !o.is e.code e.subject

/-- A raise that matches an entry (R136). -/
def coalesce (a : Alerts) (e : AlertEntry) (priority : Nat) : Alerts :=
  let lifted := decide (e.priority < priority) && !(e.inService && otherAtPriority a.entries e priority)
  let e' := { e with
    repeats := min 255 (e.repeats + 1), acked := false, resolved := false,
    priority := if lifted then priority else e.priority }
  { a with entries := insertSorted AlertEntry.before e' (dropEntry a.entries e.code e.subject) }

/-- The entry that a raise into a full list may evict: not in service, of the lowest priority among those,
the oldest of those (R137). -/
def evictionCandidate (l : List AlertEntry) : Option AlertEntry :=
  l.foldl
    (fun best e =>
      if e.inService then best
      else match best with
        | none => some e
        | some b =>
          if decide (e.priority < b.priority) || (e.priority == b.priority && decide (e.seq < b.seq)) then some e
          else best) none

/-- A new entry (R135), into this list of the others. -/
def createEntry (a : Alerts) (others : List AlertEntry) (c : AlertCode) (subj : Subject)
    (priority hour : Nat) : Alerts :=
  let e : AlertEntry :=
    { code := c, subject := subj, priority := priority, seq := a.nextSeq, acked := false, inService := false,
      resolved := false, repeats := 1, hourAt := hour }
  { a with entries := insertSorted AlertEntry.before e others, nextSeq := a.nextSeq + 1 }

/-- A raise (R135, R136, R137). -/
def raiseAlert (a : Alerts) (c : AlertCode) (subj : Subject) (priority hour : Nat) : Alerts :=
  match a.find c subj with
  | some e => coalesce a e priority
  | none =>
    if a.entries.length < Config.alertEntries then createEntry a a.entries c subj priority hour
    else match evictionCandidate a.entries with
      | some v =>
        if v.priority < priority then
          createEntry a (dropEntry a.entries v.code v.subject) c subj priority hour
        else { a with notListed := true }
      | none => { a with notListed := true }

/-- A withdrawal (R139). -/
def withdrawAlert (a : Alerts) (c : AlertCode) (subj : Subject) : Alerts :=
  match a.find c subj with
  | some e =>
    if e.inService then
      { a with entries := a.entries.map fun o => if o.is c subj then { o with resolved := true } else o }
    else { a with entries := dropEntry a.entries c subj }
  | none => a

/-- One raise or withdrawal. -/
def applyOp (hour : Nat) (a : Alerts) : AlertOp → Alerts
  | .raise c subj p => raiseAlert a c subj p hour
  | .withdraw c subj => withdrawAlert a c subj

/-- Raises and withdrawals taken in turn (R138). -/
def applyOps (hour : Nat) (a : Alerts) (ops : List AlertOp) : Alerts := ops.foldl (applyOp hour) a

/-- The raises and withdrawals of one event, gathered by owner in each owner's order. -/
def byOwner (ops : List (Owner × AlertOp)) : List (List AlertOp) :=
  ([.measurement, .pose, .grade, .envelope, .caps, .economy, .service, .plan, .link, .store].map
    fun (o : Owner) => (ops.filter fun p => p.1 == o).map fun p => p.2).filter fun l => !l.isEmpty

/-- The operations of several owners merged as a code picks: at each place the code modulo the number of
owners left names the owner whose next operation is taken, and the quotient picks the rest. Each owner's own
order is kept, and every such merge is picked by some code. -/
def pickOps : Nat → Nat → List (List AlertOp) → List AlertOp
  | 0, _, _ => []
  | fuel + 1, code, l =>
    match l[code % l.length]? with
    | some (x :: rest) =>
      x :: pickOps fuel (code / l.length)
        (if rest.isEmpty then l.eraseIdx (code % l.length) else l.set (code % l.length) rest)
    | _ => []

/-- The raises and withdrawals of one event in the order taken: one owner's in its own order, those of
different owners in any order (R138), which the code, a free value, picks (log 8). -/
def opsInOrder (code : Nat) (batches : List (List AlertOp)) : List AlertOp :=
  match batches with
  | [] => []
  | [b] => b
  | bs => pickOps bs.flatten.length code bs

end Sys2Proof.Machine
end

