-- ==== Sys2Proof/Machine/Ops.lean ====
section
/-! DEFINITION. The shared operations of every event: the event under way (`Ev`), handing alerts to the Alert
List, placing and removing messages (R165), answering requests (R163, R164), hearing a link (R167), and the
store port (R173, R174). -/

namespace Sys2Proof.Machine

/-- An event under way: the state before it, the state so far, the raises and withdrawals handed on so far,
and what the end of the event owes. `runEntry`: the event enters RUN. `offerDue`: an ALERT_OFFER is placed
whatever changed (R142). `statusDue`: a SERVICE_STATUS is placed whatever changed (R128). -/
structure Ev where
  old : State
  st  : State
  ops : List (Owner × AlertOp)
  runEntry  : Bool
  offerDue  : Bool
  statusDue : Bool

/-- An event that begins in a state. -/
def Ev.start (s : State) : Ev :=
  { old := s, st := s, ops := [], runEntry := false, offerDue := false, statusDue := false }

/-- The event with its state so far changed. -/
def Ev.upd (e : Ev) (f : State → State) : Ev := { e with st := f e.st }

/-- The event with more raises and withdrawals of one owner. -/
def Ev.hand (e : Ev) (o : Owner) (ops : List AlertOp) : Ev :=
  { e with ops := e.ops ++ ops.map fun p => (o, p) }

/-- The event whose later comparisons start from the state so far: settings at a start or a wake are not
handed on as changes (R40, R55, R91, R113). -/
def Ev.rebase (e : Ev) : Ev := { e with old := e.st }

/-- Raise on the rising side of a condition and withdraw on its falling side. -/
def edgeOps (before after : Bool) (c : AlertCode) (subj : Subject) : List AlertOp :=
  match before, after with
  | false, true => [raiseOp c subj]
  | true, false => [.withdraw c subj]
  | _, _ => []

/-! ### Transmit lists (R165) -/

/-- Whether an entry is of a kind for a destination. -/
def TxEntry.is (e : TxEntry) (k : TxKind) (dest : Byte) : Bool := e.kind == k && e.dest == dest

/-- Transmit order: by identifier, lowest first. -/
def TxEntry.before (a b : TxEntry) : Bool :=
  decide (a.kind.identifier a.dest < b.kind.identifier b.dest)

/-- A placing: it replaces the content of the entry of its kind and destination, which keeps its place, or
joins where its identifier falls. -/
def placeEntry (l : List TxEntry) (e : TxEntry) : List TxEntry :=
  if l.any fun o => o.is e.kind e.dest then
    l.map fun o => if o.is e.kind e.dest then { o with data := e.data } else o
  else insertSorted TxEntry.before e l

/-- A removal of a waiting message. -/
def removeEntry (l : List TxEntry) (k : TxKind) (dest : Byte) : List TxEntry :=
  l.filter fun o => !o.is k dest

/-- The transmit list of a port changed. -/
def Ports.updList (p : Ports) (q : Port) (f : List TxEntry → List TxEntry) : Ports :=
  p.set q { p.get q with list := f (p.get q).list }

/-- A message placed for a party, on its port. -/
def State.place (s : State) (k : TxKind) (dst : Party) (data : List Byte) : State :=
  { s with ports := s.ports.updList dst.port fun l => placeEntry l { kind := k, dest := dst.node, data := data } }

/-- A waiting message for a party removed. -/
def State.unplace (s : State) (k : TxKind) (dst : Party) : State :=
  { s with ports := s.ports.updList dst.port fun l => removeEntry l k dst.node }

/-! ### Answers (R163, R164) -/

/-- Whether a result is a refusal that the message fault record is offered. -/
def Result.isRefusal : Result → Bool
  | .done | .clamped => false
  | _ => true

/-- A refusal offered to the message fault record (R164). -/
def offerFault (f : Option FaultRec) (p : Party) (k : RxKind) (r : Result) (hour : Nat) : Option FaultRec :=
  match f with
  | some c => some { c with more := true }
  | none => some { node := p.node, kind := k, result := r, hour := hour, more := false }

/-- REQ_RESULT placed for a request, its refusal offered to the fault record. -/
def State.answer (s : State) (p : Party) (k : RxKind) (r : Result) (detail : Nat) : State :=
  let s := s.place .reqResult p (reqResultData k r detail)
  if r.isRefusal then { s with fault := offerFault s.fault p k r s.svc.meters.hour } else s

/-- The answer to a request of the event under way. -/
def Ev.answer (e : Ev) (p : Party) (k : RxKind) (r : Result) (detail : Nat) : Ev :=
  e.upd fun s => s.answer p k r detail

/-! ### Links (R167) -/

/-- A frame of a party heard: its link becomes ONLINE with silence time 0, and its link alert is withdrawn
before the frame is handed on. The cab's return is handed to the Alert List (R142). -/
def Ev.hear (e : Ev) (p : Party) : Ev :=
  let l := e.st.links.get p
  let op : List AlertOp :=
    match l.state with
    | .online => []
    | .silent => [.withdraw .linkSilent (.party p)]
    | .offline => if l.offlineStands then [.withdraw .linkOffline (.party p)] else []
  { e with
    st := { e.st with
      links := e.st.links.set p { state := .online, silence := 0, offlineStands := false }
      alerts := applyOps e.st.svc.meters.hour e.st.alerts op }
    offerDue := e.offerDue || (p == .cab && l.state != .online) }

/-! ### Economy window (R101) -/

/-- The window discarded. -/
def Econ.discardWindow (c : Econ) : Econ := { c with count := 0, sum := 0, down := 0 }

/-- A link becoming SILENT: LINK_SILENT is raised, and the engine's window is discarded (R97, R167). -/
def Ev.linkSilent (e : Ev) (p : Party) : Ev :=
  let e := e.upd fun s => { s with links := s.links.set p { s.links.get p with state := .silent } }
  let e := e.hand .link [raiseOp .linkSilent (.party p)]
  if p = .engine then e.upd fun s => { s with econ := s.econ.discardWindow } else e

/-! ### The store port (R173, R174) -/

/-- The account image of the state (R131). -/
def accountImage (s : State) : AccountImage :=
  { meters := { s.svc.meters with digCycles := s.cycle.total }
    nrev := s.meas.slew.nrev
    items := match s.svc.held with
      | some h => h
      | none => s.svc.items.map fun i => { number := i.defn.number, content := some (i.defn.basis, i.usage) } }

/-- The slot a checkpoint writes (R173): the one that does not hold the current sequence, B when both valid
slots hold it, A when the current sequence is 0. -/
def checkpointSlot (c : Chip) (current : Nat) : SlotId :=
  if current = 0 then .a
  else if c.slotA.valid && c.slotA.seq == current then .b
  else .a

/-- The sequence number of the next checkpoint (R173). -/
def nextSequence (current : Nat) : Nat := if current = Config.maxU32 then 1 else current + 1

/-- A checkpoint starts: snapshot taken, slot marked invalid, pending flag cleared (R173). -/
def State.startCheckpoint (s : State) : State :=
  let k := checkpointSlot s.chip s.ctrl.current
  { s with
    chip := s.chip.setSlot k (s.chip.slot k).marked
    ctrl := { s.ctrl with
      writing := some { slot := k, seq := nextSequence s.ctrl.current, image := accountImage s,
                        parking := s.ctrl.parkingCkpt }
      pendingCkpt := false } }

/-- A checkpoint request (R173). -/
def State.requestCheckpoint (s : State) : State :=
  if s.ctrl.writing.isNone && s.ctrl.imageWrite == .none then s.startCheckpoint
  else { s with ctrl := { s.ctrl with pendingCkpt := true } }

/-- The plan image write takes the port: the old image is marked invalid (R159, R174). -/
def State.imageToPort (s : State) : State :=
  { s with chip := { s.chip with image := none }, ctrl := { s.ctrl with imageWrite := .onPort } }

/-- A plan image write asked for at a commit (R159, R174): at once when no checkpoint holds the port, a write
on the port abandoned; otherwise waiting. -/
def State.requestImageWrite (s : State) : State :=
  let s := { s with plan := { s.plan with image := .storing } }
  if s.ctrl.writing.isNone then s.imageToPort
  else { s with ctrl := { s.ctrl with imageWrite := .waiting } }

/-- The store port freed: a waiting plan image write goes first, then a pending checkpoint (R173, R174). -/
def State.portFreed (s : State) : State :=
  if s.ctrl.writing.isSome then s
  else match s.ctrl.imageWrite with
    | .waiting => s.imageToPort
    | .onPort => s
    | .none => if s.ctrl.pendingCkpt then s.startCheckpoint else s

/-! ### Transfer and parking -/

/-- The transfer returned to IDLE with the staging area discarded and both timers stopped (R148, R155). A
stopped timer stands at 0 (DESIGN CHOICE, log 32). -/
def PlanStore.abandon (p : PlanStore) : PlanStore :=
  { p with staging := Seven.all emptyRegion, xfer := .idle, requestTimer := 0, inactTimer := 0 }

/-- The transfer abandoned as by XFER_ABORT: staging is discarded in OPEN and RECEIVING (R155). In REQUESTED
and IDLE staging holds nothing, as every return to IDLE discards it (R148). -/
def PlanStore.abort (p : PlanStore) : PlanStore :=
  match p.xfer with
  | .opened | .receiving => p.abandon
  | .requested => { p with xfer := .idle, requestTimer := 0 }
  | .idle => p

/-- The entry to PARKED: transmit lists emptied, reads discarded, a transfer abandoned (R175, R155, R165,
R168). The service-awake timer, which runs in SERVICE_AWAKE alone, stands at 0 (DESIGN CHOICE, log 32). -/
def State.enterParked (s : State) : State :=
  { s with
    power := .parked
    plan := s.plan.abort
    ports := { implement := { s.ports.implement with list := [] }, powertrain := { s.ports.powertrain with list := [] } }
    reads := noReads
    ctrl := { s.ctrl with awakeTimer := 0 } }

/-- PARKING ends in PARKED once the parking checkpoint has ended and the plan image is not STORING (R175). -/
def State.parkIfDone (s : State) : State :=
  if s.power == .parking && !s.ctrl.parkingCkpt && s.plan.image != .storing then s.enterParked else s

end Sys2Proof.Machine
end

