-- ==== Sys2Proof/Machine/Operands.lean ====
section
/-! DEFINITION. The contents of arriving messages, read from their data fields by the layouts of R169. -/

namespace Sys2Proof.Machine

/-- The joint a code names, or none (R1). -/
def jointOf : Nat → Option Joint
  | 0 => some .boom | 1 => some .stick | 2 => some .bucket | _ => none

/-- A two-bit status: 0 is OK, every other code is taken as FAULT (R1, R169). -/
def statusOf (n : Nat) : Status := if n = 0 then .ok else .fault

/-- One channel as a JOINT_SAMPLE carries it. -/
structure ChannelIn where
  reading : Int
  status  : Status
  deriving DecidableEq, Repr

/-- JOINT_SAMPLE. -/
structure JointIn where
  joint : Option Joint
  ch1   : ChannelIn
  ch2   : ChannelIn
  ch3   : ChannelIn
  deriving DecidableEq, Repr

/-- JOINT_SAMPLE from its data field. -/
def readJoint (d : List Byte) : JointIn :=
  { joint := jointOf (u8 d 0)
    ch1 := { reading := s16 d 1, status := statusOf (u8 d 7 % 4) }
    ch2 := { reading := s16 d 3, status := statusOf (u8 d 7 / 4 % 4) }
    ch3 := { reading := s16 d 5, status := statusOf (u8 d 7 / 16 % 4) } }

/-- SLEW_SAMPLE. -/
structure SlewIn where
  raw       : Nat
  speed     : Int
  latched   : Nat
  indexSeen : Bool
  status    : Status
  deriving DecidableEq, Repr

/-- SLEW_SAMPLE from its data field. -/
def readSlew (d : List Byte) : SlewIn :=
  { raw := u16 d 0, speed := s16 d 2, latched := u16 d 4, indexSeen := bitAt d 6 0,
    status := statusOf (u8 d 6 / 2 % 4) }

/-- ENGINE_STATUS. -/
structure EngineIn where
  speed   : Nat
  load    : Nat
  fuel    : Nat
  derate  : Nat
  running : Bool
  deriving DecidableEq, Repr

/-- ENGINE_STATUS from its data field. -/
def readEngine (d : List Byte) : EngineIn :=
  { speed := u16 d 0, load := u8 d 2, fuel := u16 d 3, derate := u8 d 5, running := bitAt d 6 0 }

/-- VALVE_STATUS: the applied caps in function order. -/
def readEcho (d : List Byte) : Eight Nat :=
  ⟨u8 d 0, u8 d 1, u8 d 2, u8 d 3, u8 d 4, u8 d 5, u8 d 6, u8 d 7⟩

/-- The fence kind a code names, or none (R73). -/
def fenceKindOf : Nat → Option FenceKind
  | 0 => some .sector | 1 => some .ceiling | 2 => some .floor | 3 => some .reach | _ => none

/-- FENCE_SET (R73). The band is none when the request carries none. -/
structure FenceIn where
  slot  : Nat
  kind  : Option FenceKind
  start : Nat
  stop  : Nat
  limit : Int
  band  : Option Nat
  deriving DecidableEq, Repr

/-- FENCE_SET from its data field. -/
def readFence (d : List Byte) : FenceIn :=
  { slot := u8 d 0, kind := fenceKindOf (u8 d 1), start := u16 d 3, stop := u16 d 5, limit := s16 d 7,
    band := if bitAt d 2 0 then some (u16 d 9) else none }

/-- The section a code names, or none (R152). -/
def sectionOf : Nat → Option Section
  | 0 => some .geometry | 1 => some .panels | 2 => some .fences | 3 => some .economy | 4 => some .service
  | 5 => some .limits | 6 => some .index | _ => none

end Sys2Proof.Machine
end

