-- ==== Sys2Proof/Machine/Measurement.lean ====
section
/-! DEFINITION. The Measurement Unit's records and how samples and expiries change them (R1 to R16, R19,
R20). Hand-ons to the other blocks are in HandOn.lean. -/

namespace Sys2Proof.Machine

/-! ### Joints (R2 to R6) -/

/-- A reading within the range of angles. -/
def inAngleRange (a : Int) : Bool := decide (-18000 ≤ a) && decide (a ≤ 17999)

/-- A channel as stored, with its use mark (R2). -/
def storeChannel (c : ChannelIn) : Channel :=
  { reading := c.reading, status := c.status,
    use := if c.status = .fault ∨ inAngleRange c.reading = false then .leftOut else .used }

/-- The readings of the USED channels in channel order. -/
def usedReadings (l : List Channel) : List Int :=
  l.filterMap fun c => if c.use = .used then some c.reading else none

/-- The vote over the USED readings, sorted (R3, R4): the voted value, if any, and the outcome. -/
def voteSorted : List Int → Option Int × Vote
  | [a, b, c] =>
    if c - a ≤ jointTolerance then (some b, .good)
    else if b - a ≤ jointTolerance ∧ c - b ≤ jointTolerance then (some b, .two)
    else if b - a ≤ jointTolerance then (some ((a + b) / 2), .two)
    else if c - b ≤ jointTolerance then (some ((b + c) / 2), .two)
    else (none, .invalid)
  | [a, b] => if b - a ≤ jointTolerance then (some ((a + b) / 2), .two) else (none, .invalid)
  | _ => (none, .invalid)

/-- The vote of three channels. -/
def vote (l : List Channel) : Option Int × Vote :=
  voteSorted (sortBy (fun x y => decide (x < y)) (usedReadings l))

/-- The quality a vote earns (R4). -/
def Vote.quality : Vote → JointQuality
  | .good => .good | .two => .two | .invalid => .invalid

/-- A joint record after a JOINT_SAMPLE (R2 to R4). -/
def JointRec.sample (r : JointRec) (m : JointIn) : JointRec :=
  let c1 := storeChannel m.ch1
  let c2 := storeChannel m.ch2
  let c3 := storeChannel m.ch3
  let v := vote [c1, c2, c3]
  { ch1 := c1, ch2 := c2, ch3 := c3, voted := v.1.getD r.voted, quality := v.2.quality, lastVote := v.2,
    age := 0, invalidStands := v.2 == .invalid }

/-- A joint record at its 60 ms expiry (R5). -/
def JointRec.heldExpiry (r : JointRec) : JointRec :=
  if (r.quality = .good ∨ r.quality = .two) ∧ heldAge ≤ r.age then { r with quality := .held } else r

/-- A joint record at its 250 ms expiry: a HELD joint becomes INVALID, and JOINT_INVALID stands for an
INVALID joint of that age (R5, R6). -/
def JointRec.invalidExpiry (r : JointRec) : JointRec :=
  if (r.quality = .held ∨ r.quality = .invalid) ∧ lostAge ≤ r.age then
    { r with quality := .invalid, invalidStands := true }
  else r

/-- The alerts of a joint whose record changed (R6). R138 orders the joints and not one joint's two alerts:
JOINT_SPREAD is handed before JOINT_INVALID (DESIGN CHOICE, log 11). -/
def jointOps (j : Joint) (before after : JointRec) : List AlertOp :=
  edgeOps before.spreadStands after.spreadStands .jointSpread (.joint j) ++
    edgeOps before.invalidStands after.invalidStands .jointInvalid (.joint j)

/-! ### Frame (R7) -/

/-- The frame record after a FRAME_SAMPLE. -/
def FrameRec.sample (r : FrameRec) (pitch roll : Int) : FrameRec :=
  if inAngleRange pitch = true ∧ inAngleRange roll = true then
    { pitch := pitch, roll := roll, quality := .good, last := .accepted, age := 0, invalidStands := false }
  else { r with quality := .invalid, last := .rejected, age := 0, invalidStands := true }

/-- The frame record at its 60 ms expiry. -/
def FrameRec.heldExpiry (r : FrameRec) : FrameRec :=
  if r.quality = .good ∧ heldAge ≤ r.age then { r with quality := .held } else r

/-- The frame record at its 250 ms expiry. -/
def FrameRec.invalidExpiry (r : FrameRec) : FrameRec :=
  if (r.quality = .held ∨ r.quality = .invalid) ∧ lostAge ≤ r.age then
    { r with quality := .invalid, invalidStands := true }
  else r

/-- The alerts of a changed frame record. -/
def frameOps (before after : FrameRec) : List AlertOp :=
  edgeOps before.invalidStands after.invalidStands .frameInvalid .none

/-! ### Pressures (R8) -/

/-- The pressure record after a PRESSURE_SAMPLE. -/
def pressureSample (pump travel implement threshold : Nat) : PressureRec :=
  { pump := min pump maxPressure, travel := min travel maxPressure, implement := min implement maxPressure,
    travelFlag := decide (pilotPressure ≤ min travel maxPressure),
    implementFlag := decide (pilotPressure ≤ min implement maxPressure),
    highFlag := decide (threshold ≤ min pump maxPressure) }

/-! ### Slew (R10 to R16) -/

/-- The direction of a speed (R10). -/
def dirOf (speed : Int) : SlewDir :=
  if movingSpeed ≤ speed then .left else if speed ≤ -movingSpeed then .right else .still

/-- The slew record after a FAULT sample (R10). -/
def SlewRec.faultSample (r : SlewRec) : SlewRec :=
  { r with encoder := .fault, state := .unindexed, speed := 0, dir := .still, firstPass := none, age := 0 }

/-- The slew record at its 250 ms expiry (R13). -/
def SlewRec.expiry (r : SlewRec) : SlewRec :=
  if lostAge ≤ r.age then { r with state := .unindexed, speed := 0, dir := .still, firstPass := none } else r

/-- Whether a direction is a reversal of the last moving direction (R11). -/
def isReversal (last : Moving) (dir : SlewDir) : Bool :=
  (dir == .left && last == .right) || (dir == .right && last == .left)

/-- The last moving direction after a direction (R11). -/
def movingAfter (last : Moving) (dir : SlewDir) : Moving :=
  match dir with
  | .still => last | .left => .left | .right => .right

/-- An OK sample up to the reversal test (R10, R11). -/
def SlewRec.okSample (r : SlewRec) (m : SlewIn) : SlewRec :=
  let speed := roundDiv (m.speed * 36000) r.nrev
  let dir := dirOf speed
  let reversal := isReversal r.lastMoving dir
  { r with
    encoder := .ok, raw := m.raw, age := 0, speed := speed, dir := dir,
    reversals := if reversal then addSat Config.maxU16 r.reversals 1 else r.reversals,
    firstPass := if reversal then none else r.firstPass,
    lastMoving := movingAfter r.lastMoving dir }

/-- The direction of a pass (R12). -/
def Moving.turn : Moving → Option Turn
  | .none => Option.none | .left => some .left | .right => some .right

/-- The candidate between two passes (R14). -/
def candidate (turn : Turn) (first latched : Nat) : Nat :=
  match turn with
  | .left => modNat ((latched : Int) - first) 65536
  | .right => modNat ((first : Int) - latched) 65536

/-- A count is within the tolerance of a nominal Nrev (R15). -/
def withinTolerance (nominal n : Nat) : Bool :=
  decide (((n : Int) - nominal).natAbs ≤ nominal / 50)

/-- The candidate a pass forms, when a first pass in its direction is present (R12). -/
def passCandidate (r : SlewRec) (latched : Nat) : Option Nat :=
  match r.lastMoving.turn, r.firstPass with
  | some t, some (c, t') => if t = t' then some (candidate t c latched) else none
  | _, _ => none

/-- An index pass (R12, R15, R16), and whether its candidate is rejected. -/
def SlewRec.indexPass (r : SlewRec) (latched nominal : Nat) (near : Bool) : SlewRec × Bool :=
  let moved : SlewRec :=
    { r with index := latched,
             state := if r.state = .unindexed then (if r.measured then .calibrated else .indexed) else r.state,
             firstPass := r.lastMoving.turn.map fun t => (latched, t) }
  match passCandidate r latched with
  | none => (moved, false)
  | some n =>
    if near then (moved, false)
    else if withinTolerance nominal n then
      ({ moved with nrev := n, measured := true, state := .calibrated }, false)
    else (moved, true)

/-- The angle of a count (R13). -/
def angleOf (raw index nrev : Nat) : Nat := modNat ((raw : Int) - index) 65536 % nrev * 36000 / nrev

/-- The slew record with its angle computed, while it is valid (R13). -/
def SlewRec.withAngle (r : SlewRec) : SlewRec :=
  if r.state = .unindexed then r else { r with angle := angleOf r.raw r.index r.nrev }

/-- The slew record after a SLEW_SAMPLE, and whether a candidate was rejected (R10 to R16). -/
def SlewRec.sample (r : SlewRec) (m : SlewIn) (nominal : Nat) (near : Bool) : SlewRec × Bool :=
  match m.status with
  | .fault => (r.faultSample, false)
  | .ok =>
    let r1 := r.okSample m
    let r2 := if m.indexSeen then r1.indexPass m.latched nominal near else (r1, false)
    (r2.1.withAngle, r2.2)

/-- The alert of a SLEW_SAMPLE's status (R10): each FAULT sample raises SLEW_ENCODER_FAULT, and an OK sample
withdraws one that stands. -/
def encoderOps (before : SlewRec) (status : Status) : List AlertOp :=
  match status with
  | .fault => [raiseOp .slewEncoderFault .none]
  | .ok => edgeOps (before.encoder == .fault) false .slewEncoderFault .none

/-! ### Settings at PARKING and at a wake (R19) -/

/-- The withdrawals when the records are set afresh, joints in the order of R138; the encoder status is OK. -/
def measWithdrawals (m after : Meas) : List AlertOp :=
  jointOps .boom m.boom after.boom ++ jointOps .stick m.stick after.stick ++
    jointOps .bucket m.bucket after.bucket ++ frameOps m.frame after.frame ++ encoderOps m.slew .ok

/-- Nrev at a cold start: the restored value within the tolerance of the nominal, else the nominal (R18). -/
def restoredNrev (nominal : Nat) : Option Nat → Nat
  | some n => if withinTolerance nominal n then n else nominal
  | none => nominal

end Sys2Proof.Machine
end

