-- ==== Sys2Proof/Machine/Pose.lean ====
section
/-! DEFINITION. The Pose Unit (R25 to R31) and the Cycle Monitor (R34 to R38) as functions of the records they
read. -/

namespace Sys2Proof.Machine

/-! ### Pose -/

/-- What the Pose Unit reads of the Measurement Unit's records (R25). -/
structure PoseIn where
  boom   : Int
  boomQ  : JointQuality
  stick  : Int
  stickQ : JointQuality
  bucket : Int
  bucketQ : JointQuality
  pitch  : Int
  roll   : Int
  frameQ : FrameQuality
  slew   : Option Nat
  deriving DecidableEq, Repr

/-- The Pose Unit's inputs. -/
def Meas.poseIn (m : Meas) : PoseIn :=
  { boom := m.boom.voted, boomQ := m.boom.quality, stick := m.stick.voted, stickQ := m.stick.quality,
    bucket := m.bucket.voted, bucketQ := m.bucket.quality, pitch := m.frame.pitch, roll := m.frame.roll,
    frameQ := m.frame.quality, slew := m.slew.validAngle }

/-- Some joint has a quality. -/
def PoseIn.anyJoint (p : PoseIn) (q : JointQuality) : Bool := p.boomQ == q || p.stickQ == q || p.bucketQ == q

/-- The pose is INVALID (R30). -/
def PoseIn.isInvalid (p : PoseIn) : Bool := p.anyJoint .invalid || p.frameQ == .invalid

/-- Roll beyond the limit in either sense (R30). -/
def tilted (roll : Int) : Bool := decide (tiltRoll < roll.natAbs)

/-- The exact positions of R26, R27 and R28, before saturation. -/
structure Points where
  rf : Int
  zf : Int
  rs : Int
  zs : Int
  rk : Int
  zk : Int
  rt : Int
  zt : Int
  htop : Int
  rmax : Int
  plan : Option (Int × Int)
  deriving DecidableEq, Repr

/-- The points of the attachment (R26, R27, R28). Each product is a term rounded once (R24). -/
def points (g : Geometry) (p : PoseIn) : Points :=
  let rf := term g.a0 (cosine p.pitch) - term g.h0 (sine p.pitch)
  let zf := term g.a0 (sine p.pitch) + term g.h0 (cosine p.pitch)
  let rs := rf + term g.l1 (cosine p.boom)
  let zs := zf + term g.l1 (sine p.boom)
  let rk := rs + term g.l2 (cosine p.stick)
  let zk := zs + term g.l2 (sine p.stick)
  let rt := rk + term g.l3 (cosine p.bucket)
  let zt := zk + term g.l3 (sine p.bucket)
  { rf := rf, zf := zf, rs := rs, zs := zs, rk := rk, zk := zk, rt := rt, zt := zt,
    htop := max (max (zs + g.t) (zk + g.t)) zt, rmax := max (max rs rk) rt,
    plan := p.slew.map fun a => (term rt (cosine a), term rt (sine a)) }

/-- A value lies outside the reported range (R29). -/
def beyond16 (a : Int) : Bool := decide (a < -32768) || decide (32767 < a)

/-- Some position is limited when stored (R29). R29 counts x and y among them, while R28 says that the quality
does not depend on the slew: where x or y alone is limited (RT at -32768, with a cosine or sine of -16384)
SATURATED is set by the slew, as R29 and R30 have it (DESIGN CHOICE, log 12). -/
def Points.limited (q : Points) : Bool :=
  [q.rf, q.zf, q.rs, q.zs, q.rk, q.zk, q.rt, q.zt, q.htop, q.rmax].any beyond16 ||
    (match q.plan with | some (x, y) => beyond16 x || beyond16 y | none => false)

/-- The degrade reasons that hold (R30). -/
def PoseIn.reasons (p : PoseIn) (saturated : Bool) : Reasons :=
  { jointTwo := p.anyJoint .two, jointHeld := p.anyJoint .held, frameHeld := p.frameQ == .held,
    tilt := tilted p.roll, saturated := saturated }

/-- Some reason holds. -/
def Reasons.any (r : Reasons) : Bool := r.jointTwo || r.jointHeld || r.frameHeld || r.tilt || r.saturated

/-- The pose record after an evaluation (R25 to R30). R25 keeps the fields of R26 to R28 at an INVALID
evaluation, while R28 copies the slew at every evaluation and makes the plan coordinates absent: the slew and
the plan coordinates follow R28, and the copy of an invalid slew carries no angle (DESIGN CHOICE, log 12). -/
def PoseRec.evaluate (r : PoseRec) (g : Geometry) (p : PoseIn) : PoseRec :=
  if p.isInvalid then
    { r with slew := p.slew, plan := none, saturated := false, quality := .invalid, reasons := noReasons }
  else
    let q := points g p
    let sat := q.limited
    let why := p.reasons sat
    { rf := sat16 q.rf, zf := sat16 q.zf, rs := sat16 q.rs, zs := sat16 q.zs, rk := sat16 q.rk,
      zk := sat16 q.zk, rt := sat16 q.rt, zt := sat16 q.zt, htop := sat16 q.htop, rmax := sat16 q.rmax,
      lowest := sat16 q.zt, bucketAngle := p.bucket, slew := p.slew,
      plan := q.plan.map fun xy => (sat16 xy.1, sat16 xy.2),
      saturated := sat, quality := if why.any then .degraded else .good, reasons := why }

/-- TILT as an evaluation finds it (R31). -/
def PoseIn.tilt (p : PoseIn) : Bool := p.frameQ != .invalid && tilted p.roll

/-! ### Work cycle -/

/-- What the Cycle Monitor reads (R36), its rest time aside. -/
structure CycleIn where
  pose      : PoseRec
  pump      : Nat
  dir       : SlewDir
  travel    : Bool
  limits    : Limits
  deriving DecidableEq, Repr

/-- The abandon condition (R35). -/
def abandonHolds (c : Cycle) (i : CycleIn) : Bool :=
  decide (i.limits.abandonTime * 1000 ≤ c.rest) || i.travel || i.pose.quality == .invalid

/-- The condition of a dig (R37). -/
def digHolds (i : CycleIn) : Bool :=
  decide (i.pose.zt < i.limits.digHeight) && decide (i.limits.digPressure ≤ i.pump)

/-- The transition that leaves a state, if it is taken (R37). -/
def cycleNext (i : CycleIn) : CycleState → Option CycleState
  | .idle => if digHolds i then some .digging else none
  | .digging =>
    if i.dir ≠ .still ∧ i.limits.digHeight ≤ i.pose.zt then some .swingLoaded else none
  | .swingLoaded => if i.limits.dumpAngle ≤ i.pose.bucketAngle then some .dumping else none
  | .dumping => if i.dir ≠ .still then some .swingEmpty else none
  | .swingEmpty => if digHolds i then some .digging else none

/-- A transition completes a cycle (R38). -/
def completes (a b : CycleState) : Bool := a == .swingEmpty && b == .digging

/-- The chain of transitions of one event (R36): the state it ends in, whether any was taken, and whether one
completed a cycle. R36 goes on until no transition applies, while R38 lets a move from SWING_EMPTY to DIGGING
only begin a chain: a chain that comes to SWING_EMPTY goes on to DIGGING where R37 has it, and completes a cycle
there (DESIGN CHOICE, log 30). The chain takes at most four transitions, so a fuel of five is never short. -/
def cycleChain (i : CycleIn) : Nat → CycleState → CycleState × Bool × Bool
  | 0, c => (c, false, false)
  | fuel + 1, c =>
    match cycleNext i c with
    | none => (c, false, false)
    | some d =>
      let r := cycleChain i fuel d
      (r.1, true, completes c d || r.2.2)

/-- The Cycle Monitor after an evaluation, and whether it completed a cycle (R35, R36, R38). -/
def Cycle.evaluate (c : Cycle) (i : CycleIn) : Cycle × Bool :=
  if abandonHolds c i then
    (if c.state = .idle then c else { c with state := .idle, age := 0 }, false)
  else
    let r := cycleChain i 5 c.state
    let moved : Cycle := if r.2.1 then { c with state := r.1, age := 0 } else c
    if r.2.2 then
      ({ moved with session := addSat Config.maxU16 c.session 1, total := addSat Config.maxU32 c.total 1 }, true)
    else (moved, false)

end Sys2Proof.Machine
end

