-- ==== Sys2Proof/Machine/GradeGuide.lean ====
section
/-! DEFINITION. The Grade Guide (R43 to R53): panel selection, elevations, guidance status and the guard. -/

namespace Sys2Proof.Machine

/-- A panel covers the tip (R46). -/
def Panel.covers (p : Panel) (angle : Nat) (rt : Int) : Bool :=
  inSectorOrAround p.start p.stop angle && decide (p.low ≤ rt) && decide (rt ≤ p.high)

/-- The covering panel with the lowest number: the table is ordered by number (R45, R46). -/
def selectPanel (panels : List Panel) (pose : PoseRec) : Option Panel :=
  match pose.slew with
  | some a => panels.find? fun p => p.covers a pose.rt
  | none => none

/-- Tip elevation (R47). -/
def tipElevation (pose : PoseRec) (b : Benchmark) : Int := pose.zt - b.zb + b.eb

/-- Design elevation (R47). -/
def designElevation (p : Panel) (b : Benchmark) (x y : Int) : Int :=
  p.e0 + roundDiv (p.gx * (x - b.xb)) 1000 + roundDiv (p.gy * (y - b.yb)) 1000

/-- Cut/fill as stored, from the exact elevations (R47). -/
def cutFill (tip design : Int) : Int := clampInt (-9999) 9999 (tip - design)

/-- A guidance record with no value present (R48). -/
def Guidance.absent (st : GuideStatus) : Guidance :=
  { status := st, tip := none, design := none, cutFill := none, panel := none }

/-- The guidance record (R46 to R48). Where a panel is selected the slew copy is valid, so a pose that is not
INVALID carries plan coordinates (R28). -/
def guidance (planActive : Bool) (panels : List Panel) (pose : PoseRec) (b : Benchmark) : Guidance :=
  if planActive = false then .absent .noPlan
  else if pose.quality = .invalid then .absent .poseInvalid
  else match b.state with
    | .none => .absent .noBenchmark
    | .stale => .absent .staleBenchmark
    | .current =>
      let tip := tipElevation pose b
      match selectPanel panels pose, pose.plan with
      | some p, some (x, y) =>
        let design := designElevation p b x y
        { status := if pose.quality = .degraded then .lowConfidence else .valid
          tip := some (sat16 tip), design := some (sat16 design), cutFill := some (cutFill tip design),
          panel := some p.number }
      | _, _ => { status := .noPanel, tip := some (sat16 tip), design := none, cutFill := none, panel := none }

/-- The guard state (R52). -/
def guardStateOf (on : Bool) (st : GuideStatus) : GuardState :=
  if on = false then .off
  else match st with
    | .valid | .lowConfidence => .active
    | _ => .suspended

/-- The BOOM_DOWN demand of a cut/fill (R52). -/
def guardDemandOf (c : Int) (band : Nat) : Nat :=
  if (band : Int) ≤ c then 1000
  else if 0 < c then guardFloor + (850 * c / band).toNat
  else 0

/-- The Grade Guide after an evaluation (R49, R52). -/
def Grade.evaluate (g : Grade) (planActive : Bool) (f : InForce) (pose : PoseRec) : Grade :=
  let r := guidance planActive f.panels pose g.bench
  let st := guardStateOf g.guardOn r.status
  { g with
    guide := r, guard := st,
    demand := if st = .active then guardDemandOf (r.cutFill.getD 0) f.limits.guardBand else 1000 }

/-- The alert of the guard (R53). -/
def guardOps (before after : GuardState) : List AlertOp :=
  edgeOps (before == .suspended) (after == .suspended) .guardSuspended .none

/-- A captured benchmark (R43). -/
def captured (pose : PoseRec) (x y elevation : Int) : Benchmark :=
  { state := .current, zb := pose.zt, eb := elevation, xb := x, yb := y }

/-- A CURRENT benchmark made STALE (R44, R55). -/
def Benchmark.staled (b : Benchmark) : Benchmark :=
  if b.state = .current then { b with state := .stale } else b

/-- The row of GRADE_GUARD (R54). -/
def guardRow (demand : Nat) : Row := { Row.free with boomDown := demand }

end Sys2Proof.Machine
end

