-- ==== Sys2Proof/Machine/Envelope.lean ====
section
/-! DEFINITION. The Envelope Unit: the judgement of each fence kind (R60 to R67), ENVELOPE_CRAWL (R68), the
alerts of the slots (R71), and the edits of the fence table (R73 to R77, R81). -/

namespace Sys2Proof.Machine

/-- What a judgement gives a slot (R59). -/
structure Judgement where
  state     : FenceState
  remaining : Option Distance
  demands   : Row
  deriving DecidableEq, Repr

/-- The cap toward a fence at a remaining angle (R60). -/
def slewCap (c : Limits) (d : Nat) : Nat :=
  if d ≤ c.margin then 0
  else min 1000 (1000 * isqrt (2 * c.decel * (d - c.margin)) / c.vmax)

/-- A row that demands only on the slew functions. -/
def slewRow (left right : Nat) : Row := { Row.free with slewLeft := left, slewRight := right }

/-- The slew demands inside a sector: crawl toward the nearer exit, 0 the other way, crawl both ways when the
exits are equal (R61, R64). -/
def exitRow (c : Limits) (g : FenceGeom) (angle : Nat) : Row :=
  let right := angleTo g.start angle
  let left := angleTo angle g.stop
  if left = right then slewRow c.crawl c.crawl
  else if left < right then slewRow c.crawl 0
  else slewRow 0 c.crawl

/-- The slew demands and state outside a sector (R60, R63). `band` is the approach band in cd where the fence
has one for the slew. -/
def outsideJudgement (c : Limits) (g : FenceGeom) (angle : Nat) (band : Option Nat) : FenceState × Row :=
  let left := angleTo angle g.start
  let right := angleTo g.stop angle
  let capLeft := slewCap c left
  let capRight := slewCap c right
  let near := match band with
    | some b => decide (left < c.margin + b) || decide (right < c.margin + b)
    | none => false
  let st : FenceState :=
    if left ≤ c.margin ∨ right ≤ c.margin then .held
    else if capLeft < 1000 ∨ capRight < 1000 ∨ near = true then .approach
    else .clear
  (st, slewRow capLeft capRight)

/-- The lesser of the angles to a sector (R65). -/
def angleDistance (g : FenceGeom) (angle : Nat) : Distance :=
  { amount := min (angleTo angle g.start) (angleTo g.stop angle), unit := .cd }

/-- A SECTOR fence with a valid slew angle (R60, R61, R65). -/
def judgeSector (c : Limits) (g : FenceGeom) (angle : Nat) : Judgement :=
  if inSector g.start g.stop angle then
    { state := .breached
      remaining := some { amount := -(min (angleTo g.start angle) (angleTo angle g.stop) : Nat), unit := .cd }
      demands := exitRow c g angle }
  else
    let r := outsideJudgement c g angle (some g.band)
    { state := r.1, remaining := some (angleDistance g angle), demands := r.2 }

/-- The function a height fence caps (R62). -/
def FenceKind.func : FenceKind → Func
  | .ceiling => .boomUp | .floor => .boomDown | .reach => .stickOut | .sector => .slewLeft

/-- The remaining distance of a height fence (R62). -/
def heightRemaining (g : FenceGeom) (pose : PoseRec) : Int :=
  let limit := g.limit.getD 0
  match g.kind with
  | .ceiling => limit - pose.htop
  | .floor => pose.zt - limit
  | .reach => limit - pose.rmax
  | .sector => 0

/-- The cap of a height fence at a remaining distance (R62). -/
def heightCap (c : Limits) (band : Nat) (r : Int) : Nat :=
  if (band : Int) ≤ r then 1000
  else if 0 < r then c.crawl + ((1000 - c.crawl : Int) * r / band).toNat
  else 0

/-- The state of a height fence at a remaining distance (R62). -/
def heightState (band : Nat) (r : Int) : FenceState :=
  if (band : Int) ≤ r then .clear
  else if 0 < r then .approach
  else if -breachTolerance < r then .held
  else .breached

/-- One function of a row replaced. -/
def Row.setFunc (row : Row) (f : Func) (n : Nat) : Row :=
  match f with
  | .slewLeft => { row with slewLeft := n } | .slewRight => { row with slewRight := n }
  | .boomUp => { row with boomUp := n } | .boomDown => { row with boomDown := n }
  | .stickOut => { row with stickOut := n } | .stickIn => { row with stickIn := n }
  | .bucketCurl => { row with bucketCurl := n } | .bucketDump => { row with bucketDump := n }

/-- A distance in MM as stored (R65). -/
def mmDistance (r : Int) : Distance := { amount := sat16 r, unit := .mm }

/-- The width of a fence's sector. -/
def FenceGeom.width (g : FenceGeom) : Nat := sectorWidth g.start g.stop

/-- A height fence applying all round, or with the slew angle inside its sector (R62, R64). -/
def judgeApplying (c : Limits) (g : FenceGeom) (pose : PoseRec) (inside : Option Nat) : Judgement :=
  let r := heightRemaining g pose
  let base : Row :=
    match inside with
    | some a => if r < 0 then exitRow c g a else Row.free
    | none => Row.free
  { state := heightState g.band r, remaining := some (mmDistance r),
    demands := base.setFunc g.kind.func (heightCap c g.band r) }

/-- A height fence with the slew angle outside its sector (R63). -/
def judgeOutside (c : Limits) (g : FenceGeom) (pose : PoseRec) (angle : Nat) : Judgement :=
  let r := heightRemaining g pose
  if 0 ≤ r then { state := .clear, remaining := some (mmDistance r), demands := Row.free }
  else
    let q := outsideJudgement c g angle none
    { state := q.1, remaining := some (angleDistance g angle), demands := q.2 }

/-- A fence that cannot be judged, with the cap on its height function (R66, R67). -/
def indeterminate (c : Limits) (g : FenceGeom) (cap : Nat) : Judgement :=
  let slews := if g.sectorActing then slewRow c.crawl c.crawl else Row.free
  { state := .indeterminate, remaining := none,
    demands := if g.kind = .sector then slews else slews.setFunc g.kind.func cap }

/-- The judgement of a fence (R60 to R67). -/
def judgeFence (c : Limits) (g : FenceGeom) (pose : PoseRec) (angle : Option Nat) : Judgement :=
  if g.kind = .sector then
    match angle with
    | some a => judgeSector c g a
    | none => indeterminate c g 1000
  else if pose.quality = .invalid then indeterminate c g c.crawl
  else if g.width = 0 then judgeApplying c g pose none
  else match angle with
    | some a => if inSector g.start g.stop a then judgeApplying c g pose (some a) else judgeOutside c g pose a
    | none => indeterminate c g (heightCap c g.band (heightRemaining g pose))

/-- A slot after an evaluation, its standing alert aside (R59). -/
def FenceSlot.evaluate (s : FenceSlot) (c : Limits) (pose : PoseRec) (angle : Option Nat) : FenceSlot :=
  match s.fence with
  | none => { s with state := .empty, remaining := none, demands := Row.free }
  | some f =>
    let j := judgeFence c f.eff pose angle
    { s with state := j.state, remaining := j.remaining, demands := j.demands }

/-- A slot as it stands while nothing is evaluated: INDETERMINATE for an INVALID pose and an invalid slew
angle (R81, R82, R83). -/
def FenceSlot.unjudged (s : FenceSlot) (c : Limits) : FenceSlot := s.evaluate c coldPose none

/-- The demand of ENVELOPE_CRAWL (R68). -/
def crawlRow (crawl : Nat) (slewValid planActive : Bool) : Row :=
  { Row.free with
    slewLeft := if slewValid && planActive then 1000 else crawl
    slewRight := if slewValid && planActive then 1000 else crawl
    boomUp := if planActive then 1000 else crawl }

/-- The withdrawal and raise of one slot whose standing alert is not the one its state calls for (R71). -/
def slotOps (n : Nat) (standing called : Option FenceAlert) : List AlertOp :=
  if standing = called then []
  else
    (match standing with | some a => [.withdraw a.code (.slot n)] | none => []) ++
      (match called with | some a => [raiseOp a.code (.slot n)] | none => [])

/-- The alerts of every slot, slots ascending (R71, R138). -/
def fenceOps (slots : List FenceSlot) : List AlertOp :=
  (slots.zipIdx.map fun p => slotOps (p.2 + 1) p.1.alert p.1.state.alert).flatten

/-- The slots with the standing alerts their states call for (R71). -/
def settleSlots (slots : List FenceSlot) : List FenceSlot :=
  slots.map fun s => { s with alert := s.state.alert }

/-- The withdrawals of every standing fence alert (R83). -/
def fenceWithdrawals (slots : List FenceSlot) : List AlertOp :=
  (slots.zipIdx.map fun p => slotOps (p.2 + 1) p.1.alert none).flatten

/-! ### Edits (R73 to R77) -/

/-- The largest band of a kind (R73). -/
def maxBand : FenceKind → Nat
  | .sector => 9000
  | _ => 10000

/-- The fence a FENCE_SET proposes, with its band clamped or defaulted, once its tests have passed (R73). -/
def proposedFence (k : FenceKind) (m : FenceIn) (c : Limits) : FenceGeom :=
  { kind := k, start := m.start, stop := m.stop, limit := if k = .sector then none else some m.limit,
    band := match m.band with | some b => min b (maxBand k) | none => c.defaultBand }

/-- Whether the band was clamped (R73). -/
def bandClamped (k : FenceKind) (m : FenceIn) : Bool :=
  match m.band with | some b => decide (maxBand k < b) | none => false

/-- A proposed sector contains the site sector (R75). -/
def sectorContains (proposed site : FenceGeom) : Bool :=
  if proposed.width = 0 ∧ proposed.kind ≠ .sector then true
  else if site.width = 0 ∧ site.kind ≠ .sector then false
  else decide (angleTo proposed.start site.start + site.width ≤ proposed.width)

/-- A proposed limit is at least as tight as the site limit (R75). -/
def limitTight (proposed site : FenceGeom) : Bool :=
  match site.kind, proposed.limit, site.limit with
  | .ceiling, some p, some s => decide (p ≤ s)
  | .floor, some p, some s => decide (s ≤ p)
  | .reach, some p, some s => decide (p ≤ s)
  | _, _, _ => true

/-- A proposed fence is at least as tight as the site part (R75). -/
def atLeastAsTight (proposed site : FenceGeom) : Bool :=
  proposed.kind == site.kind && sectorContains proposed site && limitTight proposed site &&
    decide (site.band ≤ proposed.band)

/-- A slot, 1 to 16. -/
def slotAt (slots : List FenceSlot) (n : Nat) : FenceSlot := slots.getD (n - 1) emptySlot

/-- The table with the contents of one slot replaced. -/
def setSlotFence (slots : List FenceSlot) (n : Nat) (f : Option Fence) : List FenceSlot :=
  slots.set (n - 1) { slotAt slots n with fence := f }

/-- A slot number is in the table (R73). -/
def slotExists (n : Nat) : Bool := decide (1 ≤ n) && decide (n ≤ Config.fenceSlots)

/-- A slot has origin SITE (R57). -/
def isSite (n : Nat) : Bool := decide (n ≤ Config.siteSlots)

/-- The tests of a FENCE_SET's contents (R73): the kind it passes with, or none. -/
def fenceTests (m : FenceIn) : Option FenceKind :=
  match m.kind with
  | none => none
  | some k =>
    if 35999 < m.start ∨ 35999 < m.stop then none
    else if k = .sector ∧ sectorWidth m.start m.stop = 0 then none
    else if m.band = some 0 then none
    else some k

/-- A fence of a CAB slot, set by the operator (R74). -/
def cabFence (g : FenceGeom) : Fence := { eff := g, site := none, verified := true, tightened := false }

/-- A fence of a SITE slot as the site gives it (R77, R81). -/
def siteFence (g : FenceGeom) : Fence := { eff := g, site := some g, verified := true, tightened := false }

/-- A site fence tightened by the cab (R75). -/
def tightenedFence (proposed site : FenceGeom) : Fence :=
  { eff := proposed, site := some site, verified := true, tightened := decide (proposed ≠ site) }

/-- A site fence as a cab FENCE_CLEAR leaves it: its site part, the verified flag kept (R76). -/
def Fence.untightened (f : Fence) : Fence :=
  { f with eff := f.site.getD f.eff, tightened := false }

/-- Every occupied slot's verified flag set or cleared (R78, R79). -/
def setVerified (slots : List FenceSlot) (v : Bool) : List FenceSlot :=
  slots.map fun s => { s with fence := s.fence.map fun f => { f with verified := v } }

/-! ### A new plan (R81, R82) -/

/-- Slots 1 to 10 as a plan's FENCES section gives them, slots 11 to 16 kept. The slots it fills and the
slots it empties keep their standing alert until it is settled. -/
def planSlots (slots : List FenceSlot) (fences : List (Nat × FenceGeom)) : List FenceSlot :=
  slots.zipIdx.map fun p =>
    if isSite (p.2 + 1) then
      { p.1 with fence := (fences.find? fun q => q.1 == p.2 + 1).map fun q => siteFence q.2 }
    else p.1

/-- Slots 1 to 10 after a commit in SERVICE_AWAKE: those the commit defines INDETERMINATE with standing alert
none, those it empties EMPTY with their standing alert withdrawn; slots 11 to 16 kept (R81). -/
def unjudgedSites (slots : List FenceSlot) (c : Limits) : List FenceSlot :=
  slots.zipIdx.map fun p =>
    if isSite (p.2 + 1) then { p.1.unjudged c with alert := none } else p.1

/-- The withdrawals of the SITE slots a commit in SERVICE_AWAKE sets (R81). -/
def siteWithdrawals (slots : List FenceSlot) : List AlertOp :=
  (slots.zipIdx.map fun p => if isSite (p.2 + 1) then slotOps (p.2 + 1) p.1.alert none else []).flatten

end Sys2Proof.Machine
end

