-- ==== Sys2Proof/Machine/CapMerger.lean ====
section
/-! DEFINITION. The Cap Merger: the merge (R86), the echo check (R92, R93), and its state at the entry to
PARKING (R90, R95). -/

namespace Sys2Proof.Machine

/-- The contributors with their rows, in the tie order of R86. -/
def DemandTable.inOrder (t : DemandTable) : List (Contributor × Row) :=
  (t.slots.zipIdx.map fun p => (Contributor.fence (p.2 + 1), p.1)) ++ [(.envelopeCrawl, t.crawl)] ++
    (t.items.zipIdx.map fun p => (Contributor.service (p.2 + 1), p.1)) ++ [(.gradeGuard, t.guard)]

/-- One contributor taken into the merge of a function: it is named when it demands less than every one
before it (R86). -/
def mergeStep (f : Func) (acc : CapRec) (c : Contributor × Row) : CapRec :=
  if c.2.get f < acc.value then { value := c.2.get f, limiting := c.1 } else acc

/-- The merge of a function (R86). -/
def mergeFunc (t : DemandTable) (f : Func) : CapRec :=
  t.inOrder.foldl (mergeStep f) { value := 1000, limiting := .none }

/-- The merge of all eight functions. -/
def mergeAll (t : DemandTable) : Eight CapRec := Eight.tabulate fun f => mergeFunc t f

/-- An echo agrees on a function (R92). -/
def agreesOn (last : Eight Nat) (before : Option (Eight Nat)) (echo : Eight Nat) (f : Func) : Bool :=
  decide (echo.get f ≤ 250) &&
    (echo.get f == last.get f || (match before with | some b => echo.get f == b.get f | none => false))

/-- The functions on which an echo disagrees (R93). -/
def disagreement (last : Eight Nat) (before : Option (Eight Nat)) (echo : Eight Nat) : Eight Bool :=
  Eight.tabulate fun f => !agreesOn last before echo f

/-- The echo check after a compared echo (R93). The echo timer, stopped, stands at 0 (DESIGN CHOICE,
log 32). -/
def Merger.compareEcho (m : Merger) (echo : Eight Nat) : Merger :=
  match m.check, m.lastSent with
  | .noReference, _ => m
  | _, none => m
  | st, some last =>
    let d := disagreement last m.sentBefore echo
    if d = Eight.all false then { m with mismatched := d, check := .agreed, echoTimer := 0 }
    else
      match st with
      | .agreed => { m with mismatched := d, check := .disagreeing, echoTimer := echoTime }
      | _ => { m with mismatched := d }

/-- A CAP_SET reported sent: recorded while sending, and the first of a RUN period brings the check to AGREED
(R92, R93). R92 leaves out a report while the merger is halted alone: a frame begun before PARKING and reported
after a key-on is recorded, and is the first of the RUN period then under way (DESIGN CHOICE, log 34). -/
def Merger.recordSent (m : Merger) (data : List Byte) : Merger :=
  if m.sending then
    { m with lastSent := some (readEcho data), sentBefore := m.lastSent,
             check := if m.check = .noReference then .agreed else m.check }
  else m

/-- The Cap Merger at the entry to PARKING: halted, its records cleared (R90, R92, R95). -/
def Merger.halt (m : Merger) : Merger :=
  { m with sending := false, lastPlaced := none, lastSent := none, sentBefore := none, check := .noReference,
           mismatched := Eight.all false, echoTimer := 0 }

/-- The alert of the echo check (R94). -/
def echoOps (before after : EchoState) : List AlertOp :=
  edgeOps (before == .mismatched) (after == .mismatched) .valveEchoMismatch .none

end Sys2Proof.Machine
end

