-- ==== Sys2Proof/Machine/Economy.lean ====
section
/-! DEFINITION. The Economy Unit: the engine record (R96), the window (R99 to R101), the judgement of the
issued step (R106, R107), auto-idle (R108, R109), fuel (R112), and its settings at starts, parking and a new
plan (R113 to R115). -/

namespace Sys2Proof.Machine

/-- The engine record after an ENGINE_STATUS, the previous-arrival field set (R96). -/
def engineTaken (m : EngineIn) : EngineRec :=
  { speed := m.speed, load := min m.load 125, fuel := min m.fuel 20000, derate := min m.derate 9,
    running := m.running, age := 0, previous := true }

/-- The fuel increment of an ENGINE_STATUS (R112), from the record as it stood before the arrival. -/
def fuelIncrement (before : EngineRec) (m : EngineIn) : Nat :=
  if before.previous then min m.fuel 20000 * min before.age fuelInterval else 0

/-- The highest step whose threshold is at most an average (R100). -/
def targetStep (e : EconSettings) (average : Nat) : Nat :=
  (e.steps.zipIdx.foldl (fun acc p => if p.1.threshold ≤ average then p.2 + 1 else acc) 1)

/-- The window closed: the selection moves (R100). -/
def Econ.closeWindow (c : Econ) (e : EconSettings) : Econ :=
  let a := c.sum / Config.windowSamples
  let target := targetStep e a
  let c' := { c with average := some a, count := 0, sum := 0 }
  if c.selection < target then { c' with selection := target, down := 0 }
  else if target = c.selection then { c' with down := 0 }
  else if c.down = 0 then { c' with down := 1 }
  else { c' with selection := c.selection - 1, down := 0 }

/-- A window sample (R99). -/
def Econ.addSample (c : Econ) (load : Nat) (e : EconSettings) : Econ :=
  let c' := { c with count := c.count + 1, sum := c.sum + load }
  if Config.windowSamples ≤ c'.count then c'.closeWindow e else c'

/-- The Economy Unit after an ENGINE_STATUS, the fuel increment and the judgement aside (R96, R99, R101). -/
def Econ.takeEngine (c : Econ) (m : EngineIn) (e : EconSettings) : Econ :=
  let c' := { c with engine := engineTaken m }
  if m.running = false then c'.discardWindow
  else if c.idle = .active ∧ c.mode = .auto then c'.addSample (engineTaken m).load e
  else c'

/-- A change of the pilot flags handed on (R105, R108, R109). -/
def Econ.takePilots (c : Econ) (p : PressureRec) : Econ :=
  let c' := { c with travelCopy := p.travelFlag, idleTimer := if p.anyPilot then 0 else c.idleTimer }
  if p.anyPilot = true ∧ c.idle = .idling then { c'.discardWindow with idle := .active } else c'

/-- The idle delay reached in ACTIVE (R108). -/
def Econ.goIdle (c : Econ) : Econ := { c.discardWindow with idle := .idling }

/-- The Economy Unit at a plan commit (R115, R109): window discarded, site cap set, the idle timer compared
with the new delay in RUN. -/
def Econ.takePlan (c : Econ) (e : EconSettings) (inRun pilots : Bool) : Econ :=
  let c' := { c.discardWindow with siteCap := e.siteStepCap }
  if inRun = true ∧ c.idle = .active ∧ pilots = false ∧ e.idleDelay * 1000 ≤ c.idleTimer then c'.goIdle else c'

/-- The Economy Unit at the entry to PARKING (R114). -/
def Econ.park (c : Econ) : Econ :=
  { c.discardWindow with
    engine := coldEngine, idle := .active, idleTimer := 0, travelCopy := false, stopCopy := false,
    cycleCopy := .idle }

/-! ### The judgement (R106, R107) -/

/-- What the judgement of the step reads (R106). -/
structure StepIn where
  selection   : Nat
  idle        : IdleState
  operatorCap : Nat
  siteCap     : Nat
  serviceCap  : Nat
  phaseCap    : Nat
  fenceCap    : Nat
  derate      : Nat
  floorStep   : Nat
  mode        : EconMode
  settings    : EconSettings
  deriving DecidableEq, Repr

/-- The inputs of the judgement. -/
def State.stepIn (s : State) : StepIn :=
  { selection := s.econ.selection, idle := s.econ.idle, operatorCap := s.econ.operatorCap,
    siteCap := s.econ.siteCap, serviceCap := s.step.serviceCap, phaseCap := s.phaseCap,
    fenceCap := s.fenceCap, derate := s.econ.engine.derate, floorStep := s.inForce.econ.floorStep,
    mode := s.econ.mode, settings := s.inForce.econ }

/-- The chosen step: the least of the selection and the five caps (R106). -/
def StepIn.chosen (i : StepIn) : Nat :=
  min i.selection (min i.operatorCap (min i.siteCap (min i.serviceCap (min i.phaseCap i.fenceCap))))

/-- The limiting input of the chosen step (R106). -/
def StepIn.limiting (i : StepIn) : Limiting :=
  if i.selection = i.chosen then .selection
  else if i.fenceCap = i.chosen then .fence
  else if i.serviceCap = i.chosen then .service
  else if i.phaseCap = i.chosen then .phase
  else if i.siteCap = i.chosen then .site
  else .operator

/-- The issued step (R106). -/
def StepIn.issued (i : StepIn) : Nat :=
  match i.idle with
  | .active => max 1 (i.chosen - i.derate)
  | .idling => 1

/-- The condition of ENGINE_DERATE_FLOOR in RUN (R107); the difference may be negative. -/
def StepIn.floorHolds (i : StepIn) : Bool :=
  i.idle == .active && decide (0 < i.derate) && decide ((i.chosen : Int) - i.derate < i.floorStep)

/-- The judgement in RUN (R106, R107). -/
def StepRec.judge (r : StepRec) (i : StepIn) : StepRec :=
  { r with chosen := i.chosen, limiting := i.limiting, issued := i.issued, floorStands := i.floorHolds }

/-- The alert of the floor (R107). -/
def floorOps (before after : Bool) : List AlertOp := edgeOps before after .engineDerateFloor .none

/-! ### Requests (R102 to R104) -/

/-- A step clamped to 1 to 10. -/
def clampStep (n : Nat) : Nat := max 1 (min 10 n)

/-- MANUAL with a step (R102). A change of mode discards the window. -/
def Econ.manual (c : Econ) (step : Nat) : Econ :=
  let c' := if c.mode = .auto then c.discardWindow else c
  { c' with mode := .manual, manualStep := clampStep step, selection := clampStep step }

/-- AUTO (R102). A change of mode discards the window. -/
def Econ.auto (c : Econ) : Econ :=
  if c.mode = .manual then { c.discardWindow with mode := .auto } else c

end Sys2Proof.Machine
end

