-- ==== Sys2Proof/Machine/ServiceAccounts.lean ====
section
/-! DEFINITION. The Service Account Unit: gains of the meters and items (R117 to R121, R123), deferral and
sign-off (R124, R125), a new plan and the held usage (R129, R130), and the restoring of the accounts
(R132). -/

namespace Sys2Proof.Machine

/-! ### Judging items (R123) -/

/-- The state the thresholds give (R123). -/
def thresholdState (d : ItemDef) (used : Nat) : ItemState :=
  if d.interval + d.margin ≤ used then .overdue
  else if d.interval ≤ used then .due
  else if d.interval * d.warn / 100 ≤ used then .dueSoon
  else .ok

/-- A usage part judged after a gain (R123). -/
def Usage.judge (u : Usage) (d : ItemDef) : Usage :=
  match u.state with
  | .deferred =>
    match u.deferredUntil with
    | some n => if n ≤ u.used then { u with state := .overdue, deferredUntil := none } else u
    | none => u
  | .overdue => u
  | _ => { u with state := thresholdState d u.used }

/-- An item after a gain of its used value (R123). -/
def Item.gain (i : Item) (n : Nat) : Item :=
  let u := { i.usage with used := addSat Config.maxU32 i.usage.used n }
  { i with usage := u.judge i.defn }

/-- A gain handed to every item of a basis; a gain of 0 changes nothing. -/
def gainItems (items : List Item) (b : Basis) (n : Nat) : List Item :=
  if n = 0 then items else items.map fun i => if i.defn.basis = b then i.gain n else i

/-- The withdrawal and raise of one item whose standing alert is not the one its state calls for (R126). -/
def itemAlertOps (n : Nat) (standing called : Option ItemAlert) : List AlertOp :=
  if standing = called then []
  else
    (match standing with | some a => [.withdraw a.code (.item n)] | none => []) ++
      (match called with | some a => [raiseOp a.code (.item n)] | none => [])

/-- The alerts of every item, items ascending (R126, R138). -/
def itemOps (items : List Item) : List AlertOp :=
  (items.map fun i => itemAlertOps i.defn.number i.alert i.usage.state.alert).flatten

/-- The items with the standing alerts their states call for. -/
def settleItems (items : List Item) : List Item := items.map fun i => { i with alert := i.usage.state.alert }

/-- The event with the alerts of the items handed on and recorded as standing (R126). -/
def Ev.settleService (e : Ev) : Ev :=
  (e.hand .service (itemOps e.st.svc.items)).upd fun s =>
    { s with svc := { s.svc with items := settleItems s.svc.items } }

/-! ### Meters (R117 to R121) -/

/-- A completion of a step's accumulator: its remainder returns to 0 and its whole part gains one (R117). -/
def completeAcc (acc : List Accumulator) (step : Nat) : List Accumulator :=
  acc.set (step - 1)
    { whole := addSat Config.maxU32 (atStep acc step { whole := 0, rem := 0 }).whole 1, rem := 0 }

/-- The weighted hours a completion gains, and the remainder it leaves (R118). -/
def weighting (rem weight : Nat) : Nat × Nat := ((rem + weight) / 100, (rem + weight) % 100)

/-- The meters and items after a completion at a step of this weight (R117, R118). Here and in the other gains
an item gains on when its basis meter is held at 4294967295, where R123 may be read otherwise (DESIGN CHOICE,
log 29). -/
def Service.completeHour (v : Service) (step weight : Nat) : Service :=
  let w := weighting v.meters.weightRem weight
  let items := gainItems (gainItems v.items .engineHours 1) .weightedHours w.1
  { v with
    meters := { v.meters with
      acc := completeAcc v.meters.acc step, hour := addSat Config.maxU32 v.meters.hour 1,
      weighted := addSat Config.maxU32 v.meters.weighted w.1, weightRem := w.2 }
    items := items }

/-- The meters and items after a fuel increment (R119). -/
def Service.addFuel (v : Service) (n : Nat) : Service :=
  let units := v.meters.fuelRem + n
  let ml := v.meters.millilitres + units / 36000
  let litres := ml / 1000
  { v with
    meters := { v.meters with
      fuelRem := units % 36000, millilitres := ml % 1000,
      litres := addSat Config.maxU32 v.meters.litres litres }
    items := gainItems v.items .fuelL litres }

/-- The meters and items after a high-pressure minute (R120). -/
def Service.addHighMinute (v : Service) : Service :=
  { v with
    meters := { v.meters with highRem := 0, highMinutes := addSat Config.maxU32 v.meters.highMinutes 1 }
    items := gainItems v.items .highPressureMin 1 }

/-- The meters and items after a slew reversal (R121). -/
def Service.addReversal (v : Service) : Service :=
  { v with
    meters := { v.meters with reversals := addSat Config.maxU32 v.meters.reversals 1 }
    items := gainItems v.items .slewReversals 1 }

/-- The meters and items after a cycle completion (R121). -/
def Service.addCycle (v : Service) : Service :=
  { v with
    meters := { v.meters with digCycles := addSat Config.maxU32 v.meters.digCycles 1 }
    items := gainItems v.items .digCycles 1 }

/-! ### Deferral and sign-off (R124, R125) -/

/-- One item replaced by its number. -/
def updItem (items : List Item) (n : Nat) (f : Item → Item) : List Item :=
  items.map fun i => if i.defn.number = n then f i else i

/-- An item deferred by an amount (R124). -/
def Item.defer (i : Item) (amount : Nat) : Item :=
  { i with usage := { i.usage with
      state := .deferred, deferredUntil := some (i.usage.used + amount), deferredFlag := true } }

/-- An item signed off (R125). -/
def Item.signOff (i : Item) (hour : Nat) : Item :=
  { i with usage := { i.usage with
      used := 0, state := .ok, deferredUntil := none, deferredFlag := false,
      signOffs := addSat Config.maxU16 i.usage.signOffs 1, hourAt := hour } }

/-! ### A new plan and the restoring of the accounts (R129, R130, R132) -/

/-- A usage part carried over to a new definition (R129). -/
def Usage.carry (u : Usage) (d : ItemDef) : Usage :=
  if u.deferredFlag = true ∧ d.interval ≤ u.used ∧ (u.state = .deferred ∨ u.state = .overdue) then u
  else
    { u with
      deferredUntil := none
      deferredFlag := u.deferredFlag && decide (d.interval ≤ u.used)
      state := thresholdState d u.used }

/-- The usage of an item whose account is lost: used for its interval, and DUE (R130, R132). -/
def lostUsage (d : ItemDef) : Usage := { newUsage with used := d.interval, state := .due }

/-- An item built from an entry of the account image or of the held usage, or as a new item (R129, R130,
R132). -/
def itemFromEntry (d : ItemDef) (entries : List UsageEntry) : Item :=
  let usage := match entries.find? fun x => x.number == d.number with
    | some x => match x.content with
      | some (_, u) => u.carry d
      | none => lostUsage d
    | none => newUsage
  { defn := d, usage := usage, alert := none }

/-- An item of the new table at a commit: carried over with its standing alert, or built from the held usage,
or new (R129). -/
def itemAtCommit (d : ItemDef) (items : List Item) (held : List UsageEntry) : Item :=
  match findItem items d.number with
  | some i => { defn := d, usage := i.usage.carry d, alert := i.alert }
  | none => itemFromEntry d held

/-- The standing alerts of the items a commit drops, withdrawn, and the alerts of the others, in ascending
item number (R126, R129, R138). -/
def commitItemOps (old new : List Item) : List AlertOp :=
  ((List.range Config.itemNumbers).map fun k =>
    match findItem new (k + 1), findItem old (k + 1) with
    | some i, _ => itemAlertOps (k + 1) i.alert i.usage.state.alert
    | none, some i => itemAlertOps (k + 1) i.alert none
    | none, none => []).flatten

/-- Every item number marked lost (R130). -/
def allLost : List UsageEntry :=
  (List.range Config.itemNumbers).map fun k => { number := k + 1, content := none }

/-- The Service Account Unit at a cold start (R130, R132). -/
def restoreService (image : Option AccountImage) (plan : Option (List ItemDef)) : Service :=
  let entries := match image with | some a => a.items | none => allLost
  { meters := match image with | some a => a.meters | none => zeroMeters
    items := match plan with | some ds => ds.map fun d => itemFromEntry d entries | none => []
    held := match plan with | some _ => none | none => some entries }

end Sys2Proof.Machine
end

