-- ==== Sys2Proof/Machine/PlanLayout.lean ====
section
/-! DEFINITION. The bytes of a work plan: each section read by its layout (R170) with the ranges of R156, the
judgement of a commit (R156) and of a plan image (R159). A section that is out of range reads as none. -/

namespace Sys2Proof.Machine

/-- A value, where a condition holds. -/
def inRange {α : Type} (ok : Bool) (a : α) : Option α := if ok then some a else none

/-- A natural number within bounds. -/
def within (lo hi n : Nat) : Bool := decide (lo ≤ n) && decide (n ≤ hi)

/-- An integer within bounds. -/
def withinInt (lo hi a : Int) : Bool := decide (lo ≤ a) && decide (a ≤ hi)

/-- Every value of a list, or none when one is missing. -/
def allSome {α : Type} : List (Option α) → Option (List α)
  | [] => some []
  | none :: _ => none
  | some a :: rest =>
    match allSome rest with
    | some l => some (a :: l)
    | none => none

/-- Bytes that are a whole number of records within a largest length. -/
def wholeRecords (bs : List Byte) (size most : Nat) : Bool :=
  decide (bs.length ≤ most) && bs.length % size == 0

/-! ### Sections -/

/-- GEOMETRY (R21, R170). -/
def readGeometry (bs : List Byte) : Option Geometry :=
  let g : Geometry :=
    { l1 := u16 bs 0, l2 := u16 bs 2, l3 := u16 bs 4, a0 := u16 bs 6, h0 := u16 bs 8, t := u16 bs 10 }
  inRange (bs.length == 12 && within 0 20000 g.l1 && within 0 20000 g.l2 && within 0 20000 g.l3 &&
    within 0 5000 g.a0 && within 0 5000 g.h0 && within 0 3000 g.t) g

/-- A panel record (R45, R170). -/
def readPanel (bs : List Byte) : Option Panel :=
  let p : Panel :=
    { number := u16 bs 0, start := u16 bs 2, stop := u16 bs 4, low := u16 bs 6, high := u16 bs 8,
      e0 := s16 bs 10, gx := s16 bs 12, gy := s16 bs 14 }
  inRange (within 1 32 p.number && within 0 35999 p.start && within 0 35999 p.stop &&
    withinInt 0 32767 p.low && withinInt 0 32767 p.high && decide (p.low ≤ p.high) &&
    withinInt (-500) 500 p.gx && withinInt (-500) 500 p.gy) p

/-- PANELS, ordered by panel number (R45). -/
def readPanels (bs : List Byte) : Option (List Panel) :=
  if wholeRecords bs 16 512 then
    match allSome ((records bs 16).map readPanel) with
    | some l =>
      inRange (distinct (l.map fun p => p.number)) (sortBy (fun a b => decide (a.number < b.number)) l)
    | none => none
  else none

/-- LIMITS (R58, R34, R52, R15, R8, R156). -/
def readLimits (bs : List Byte) : Option Limits :=
  let c : Limits :=
    { crawl := u16 bs 0, margin := u16 bs 2, decel := u16 bs 4, vmax := u16 bs 6, defaultBand := u16 bs 8,
      guardBand := u16 bs 10, nominalNrev := u16 bs 12, digHeight := s16 bs 14, digPressure := u16 bs 16,
      dumpAngle := s16 bs 18, abandonTime := u8 bs 20, highPressure := u16 bs 21 }
  inRange (bs.length == 23 && within 50 300 c.crawl && within 0 3000 c.margin && within 500 8000 c.decel &&
    within 600 6000 c.vmax && within 1 9000 c.defaultBand && within 100 1000 c.guardBand &&
    within 20000 60000 c.nominalNrev && withinInt (-5000) 10000 c.digHeight && within 50 700 c.digPressure &&
    withinInt (-9000) 9000 c.dumpAngle && within 2 120 c.abandonTime && within 50 700 c.highPressure) c

/-- A fence record with its slot (R147, R156). A band of 0 is held as 0 until the default of the plan's
LIMITS replaces it. -/
def readFenceRecord (bs : List Byte) : Option (Nat × FenceGeom) :=
  match fenceKindOf (u8 bs 1) with
  | none => none
  | some k =>
    let g : FenceGeom :=
      { kind := k, start := u16 bs 2, stop := u16 bs 4, limit := if k = .sector then none else some (s16 bs 6),
        band := u16 bs 8 }
    inRange (within 1 Config.siteSlots (u8 bs 0) && within 0 35999 g.start && within 0 35999 g.stop &&
      (k != .sector || decide (0 < sectorWidth g.start g.stop)) && decide (g.band ≤ maxBand k)) (u8 bs 0, g)

/-- FENCES, with the bands as the records give them (R156). -/
def readFences (bs : List Byte) : Option (List (Nat × FenceGeom)) :=
  if wholeRecords bs 10 100 then
    match allSome ((records bs 10).map readFenceRecord) with
    | some l => inRange (distinct (l.map fun p => p.1)) l
    | none => none
  else none

/-- The default band in place of a band of 0 (R147). -/
def withDefaultBand (c : Limits) (p : Nat × FenceGeom) : Nat × FenceGeom :=
  if p.2.band = 0 then (p.1, { p.2 with band := c.defaultBand }) else p

/-- A row of the step table (R98, R170). -/
def readStepRow (bs : List Byte) (k : Nat) : StepRow :=
  { rpm := u16 bs (4 * k), threshold := u8 bs (4 * k + 2), weight := u8 bs (4 * k + 3) }

/-- Every number of a list lies above the one before it. -/
def rising : List Nat → Bool
  | a :: b :: rest => decide (a < b) && rising (b :: rest)
  | _ => true

/-- The ranges and orders of a step table (R98). -/
def stepTableOk (rows : List StepRow) : Bool :=
  (rows.all fun r => within 600 2500 r.rpm && within 0 125 r.threshold && within 60 160 r.weight) &&
    (rows.map fun r => r.threshold).head? == some 0 && rising (rows.map fun r => r.threshold)

/-- A power step. -/
def isStep (n : Nat) : Bool := within 1 Config.powerSteps n

/-- ECONOMY (R98, R170). -/
def readEconomy (bs : List Byte) : Option EconSettings :=
  let e : EconSettings :=
    { steps := (List.range Config.powerSteps).map (readStepRow bs), startStep := u8 bs 40,
      siteStepCap := u8 bs 41, idleDelay := u8 bs 42, floorStep := u8 bs 43, fenceStep := u8 bs 44,
      capIdle := u8 bs 45, capDigging := u8 bs 46, capLoaded := u8 bs 47, capDumping := u8 bs 48,
      capEmpty := u8 bs 49, capTravel := u8 bs 50 }
  inRange (bs.length == 51 && stepTableOk e.steps && isStep e.startStep && isStep e.siteStepCap &&
    within 4 60 e.idleDelay && isStep e.floorStep && isStep e.fenceStep && isStep e.capIdle &&
    isStep e.capDigging && isStep e.capLoaded && isStep e.capDumping && isStep e.capEmpty &&
    isStep e.capTravel) e

/-- The basis a code names, or none (R122). -/
def basisOf : Nat → Option Basis
  | 0 => some .engineHours | 1 => some .weightedHours | 2 => some .slewReversals | 3 => some .digCycles
  | 4 => some .highPressureMin | 5 => some .fuelL | _ => none

/-- An item record (R122, R170). -/
def readItem (bs : List Byte) : Option ItemDef :=
  match basisOf (u8 bs 3) with
  | none => none
  | some b =>
    let d : ItemDef :=
      { number := u8 bs 0, label := u16 bs 1, basis := b, interval := u32 bs 4, warn := u8 bs 8,
        margin := u32 bs 9, cabSignOff := u8 bs 13 == 1
        funcDerate := if u8 bs 14 = 0 then none else some (Eight.ofByte (u8 bs 14), u16 bs 15)
        stepDerate := if u8 bs 17 = 0 then none else some (u8 bs 17) }
    inRange (within 1 Config.itemNumbers d.number && within 1 4000000 d.interval && within 50 99 d.warn &&
      within 0 4000000 d.margin && within 0 1 (u8 bs 13) &&
      (u8 bs 14 == 0 || within 0 999 (u16 bs 15)) && within 0 9 (u8 bs 17)) d

/-- SERVICE, ordered by item number (R122). -/
def readService (bs : List Byte) : Option (List ItemDef) :=
  if wholeRecords bs 18 432 then
    match allSome ((records bs 18).map readItem) with
    | some l =>
      inRange (distinct (l.map fun d => d.number)) (sortBy (fun a b => decide (a.number < b.number)) l)
    | none => none
  else none

/-! ### INDEX (R170) -/

/-- The place of a section's length and checksum in the INDEX. -/
def indexPlace (k : Section) : Nat := 6 + 4 * k.code

/-- The length the INDEX gives a section. -/
def indexLength (index : List Byte) (k : Section) : Nat := u16 index (indexPlace k)

/-- The checksum the INDEX gives a section. -/
def indexSum (index : List Byte) (k : Section) : BitVec 16 := BitVec.ofNat 16 (u16 index (indexPlace k + 2))

/-! ### The commit tests (R156) -/

/-- The six sections a plan carries beside its INDEX, in order. -/
def planSections : List Section := [.geometry, .panels, .fences, .economy, .service, .limits]

/-- A section's content is well formed and in range. -/
def contentOk (k : Section) (bs : List Byte) : Bool :=
  match k with
  | .geometry => (readGeometry bs).isSome | .panels => (readPanels bs).isSome
  | .fences => (readFences bs).isSome | .economy => (readEconomy bs).isSome
  | .service => (readService bs).isSome | .limits => (readLimits bs).isSome | .index => true

/-- The first test one section fails, if any: received, length, checksum, range. -/
def sectionFailure (index : List Byte) (k : Section) (r : Region) : Option CommitReason :=
  if r.received = false then some .missing
  else if r.length ≠ indexLength index k then some .length
  else if r.sum ≠ indexSum index k then some .checksum
  else if contentOk k r.bytes = false then some .range
  else none

/-- The first failure over a list of sections. -/
def firstFailure (staging : Seven Region) : List Section → Option (Section × CommitReason)
  | [] => none
  | k :: rest =>
    match sectionFailure staging.index.bytes k (staging.get k) with
    | some why => some (k, why)
    | none => firstFailure staging rest

/-- The failing section and reason of a commit, or none when every test passes. -/
def commitFailure (staging : Seven Region) : Option (Section × CommitReason) :=
  if staging.index.received = false then some (.index, .missing)
  else if staging.index.length ≠ 30 then some (.index, .length)
  else firstFailure staging planSections

/-- What the blocks take from the sections of a plan that passed its tests. The sections of a plan that did
not pass read as none. -/
def planContent (bytes : Seven (List Byte)) : Option PlanContent :=
  match readGeometry bytes.geometry, readPanels bytes.panels, readFences bytes.fences,
      readEconomy bytes.economy, readService bytes.service, readLimits bytes.limits with
  | some g, some p, some f, some e, some v, some c =>
    some { inForce := { geom := g, panels := p, econ := e, limits := c }, fences := f.map (withDefaultBand c),
           items := v }
  | _, _, _, _, _, _ => none

/-- A plan judged at a commit: the active plan it makes and its content, or the failure. -/
def judgeCommit (staging : Seven Region) : Except (Section × CommitReason) (ActivePlan × PlanContent) :=
  match commitFailure staging with
  | some f => .error f
  | none =>
    let bytes := staging.map fun r => r.bytes
    match planContent bytes with
    | some c => .ok ({ bytes := bytes, sums := staging.map fun r => r.sum }, c)
    | none => .error (.limits, .range)

/-! ### The plan image (R159) -/

/-- The bytes of an image under its checksum: its sections run together in the order GEOMETRY to LIMITS, then
INDEX, with nothing between them; no rule gives their layout (DESIGN CHOICE, log 3). -/
def imageBytes (bytes : Seven (List Byte)) : List Byte := bytes.toList.flatten

/-- The image of a plan. -/
def imageOf (p : ActivePlan) : PlanImage := { bytes := p.bytes, sum := checksum (imageBytes p.bytes) }

/-- A section of an image as a region that was received. -/
def regionOf (bs : List Byte) : Region := { received := true, length := bs.length, sum := checksum bs, bytes := bs }

/-- A plan image as a cold start judges it: its checksum is right and its sections pass the commit tests. -/
def judgeImage (m : PlanImage) : Option (ActivePlan × PlanContent) :=
  if m.sum = checksum (imageBytes m.bytes) then
    match judgeCommit (m.bytes.map regionOf) with
    | .ok r => some r
    | .error _ => none
  else none

/-- The image on the chip, judged, or none. -/
def restorePlan (image : Option PlanImage) : Option (ActivePlan × PlanContent) :=
  match image with
  | some m => judgeImage m
  | none => none

end Sys2Proof.Machine
end

