-- ==== Sys2Proof/Machine/Snapshot.lean ====
section
/-! DEFINITION. The records that READ returns (R168), encoded by R169: fields in the order of the owner's
table or list, each the smallest of 1, 2 or 4 bytes that holds its stated range. What R169 leaves of the
layouts, the widths of fields without a stated range and the order inside R168's own lists among it, is the
model's (DESIGN CHOICE, log 10). -/

namespace Sys2Proof.Machine

/-! ### Measurement, pose, cycle -/

/-- One channel's reading and status. -/
def putChannel (c : Channel) : List Byte := putS16 c.reading ++ put8 c.status.code

/-- Selector 0x01 (section 1.1). The use marks are a byte for each channel (DESIGN CHOICE, log 10). -/
def jointBytes (r : JointRec) : List Byte :=
  putChannel r.ch1 ++ putChannel r.ch2 ++ putChannel r.ch3 ++
  put8 r.ch1.use.code ++ put8 r.ch2.use.code ++ put8 r.ch3.use.code ++
  putS16 r.voted ++ put8 r.quality.code ++ put8 r.lastVote.code ++ put32 r.age

/-- Selector 0x02 (section 1.1). -/
def frameBytes (r : FrameRec) : List Byte :=
  putS16 r.pitch ++ putS16 r.roll ++ put8 r.quality.code ++ put8 r.last.code ++ put32 r.age

/-- Selector 0x03 (section 1.1). The angle is shown without a presence byte in every index state, and the first
pass has one before its count and direction (DESIGN CHOICE, log 10). -/
def slewBytes (r : SlewRec) : List Byte :=
  put16 r.raw ++ put16 r.index ++ put16 r.nrev ++ put8 r.state.code ++ putFlag r.measured ++ put16 r.angle ++
  putS32 r.speed ++ put8 r.dir.code ++ put8 r.lastMoving.code ++
  putOption 3 (fun (p : Nat × Turn) => put16 p.1 ++ put8 p.2.code) r.firstPass ++
  put8 r.encoder.code ++ put16 r.reversals ++ put32 r.age

/-- Selector 0x04 (section 1.1). -/
def pressBytes (r : PressureRec) : List Byte :=
  put16 r.pump ++ put16 r.travel ++ put16 r.implement ++ putFlag r.travelFlag ++ putFlag r.implementFlag ++
  putFlag r.highFlag

/-- The set of degrade reasons as one byte, JOINT_TWO in bit 0 to SATURATED in bit 4, in the order of R30's
table: R169 codes a set of functions alone (DESIGN CHOICE, log 10). -/
def Reasons.toByte (r : Reasons) : Nat :=
  (if r.jointTwo then 1 else 0) + (if r.jointHeld then 2 else 0) + (if r.frameHeld then 4 else 0) +
  (if r.tilt then 8 else 0) + (if r.saturated then 16 else 0)

/-- Selector 0x05 (R32). A presence byte stands before the slew copy, and one before the pair of plan
coordinates, which are present or absent together (DESIGN CHOICE, log 10). -/
def poseBytes (r : PoseRec) : List Byte :=
  ([r.rf, r.zf, r.rs, r.zs, r.rk, r.zk, r.rt, r.zt, r.htop, r.rmax, r.lowest, r.bucketAngle].map
    putS16).flatten ++
  putOption 2 put16 r.slew ++ putOption 4 (fun (p : Int × Int) => putS16 p.1 ++ putS16 p.2) r.plan ++
  putFlag r.saturated ++ put8 r.quality.code ++ put8 r.reasons.toByte

/-- Selector 0x06 (R34). -/
def cycleBytes (c : Cycle) : List Byte :=
  put8 c.state.code ++ put32 c.age ++ put32 c.rest ++ put16 c.session ++ put32 c.total

/-! ### Grade and fences -/

/-- Selector 0x07 (R42). -/
def benchBytes (b : Benchmark) : List Byte :=
  put8 b.state.code ++ putS16 b.zb ++ putS16 b.eb ++ putS16 b.xb ++ putS16 b.yb

/-- Selector 0x08 (R48, R51, R52). The guard switch is shown as a flag, 1 for ON, as GUARD_SET carries it
(DESIGN CHOICE, log 10). -/
def guideBytes (g : Grade) : List Byte :=
  put8 g.guide.status.code ++ putOption 2 putS16 g.guide.tip ++ putOption 2 putS16 g.guide.design ++
  putOption 2 putS16 g.guide.cutFill ++ putOption 1 put8 g.guide.panel ++
  putFlag g.guardOn ++ put8 g.guard.code ++ put16 g.demand

/-- Selector 0x09 (R45). -/
def panelBytes (p : Panel) : List Byte :=
  put8 p.number ++ put16 p.start ++ put16 p.stop ++ putS16 p.low ++ putS16 p.high ++ putS16 p.e0 ++
  putS16 p.gx ++ putS16 p.gy

/-- A row of eight demands. -/
def rowBytes (r : Row) : List Byte := (r.toList.map put16).flatten

/-- Selector 0x0A (R57): slot `n`. The fields that an EMPTY slot lacks have a presence byte each, sector start
and sector end their own; the site part has one before it and one for its limit; the remaining distance takes
4 bytes and its unit one; and a standing alert is a presence byte, 0 for none, and its code (DESIGN CHOICE,
log 10). -/
def fenceBytes (n : Nat) (c : FenceSlot) : List Byte :=
  let g := c.fence.map fun f => f.eff
  put8 n ++ put8 (if isSite n then 0 else 1) ++
  putOption 1 (fun (g : FenceGeom) => put8 g.kind.code) g ++
  putOption 2 (fun (g : FenceGeom) => put16 g.start) g ++
  putOption 2 (fun (g : FenceGeom) => put16 g.stop) g ++
  putOption 2 putS16 (g.bind fun g => g.limit) ++
  putOption 2 (fun (g : FenceGeom) => put16 g.band) g ++
  putOption 9
    (fun (g : FenceGeom) => put16 g.start ++ put16 g.stop ++ putOption 2 putS16 g.limit ++ put16 g.band)
    (c.fence.bind fun f => f.site) ++
  putFlag (match c.fence with | some f => f.verified | none => false) ++
  putFlag (match c.fence with | some f => f.tightened | none => false) ++
  put8 c.state.code ++
  putOption 5 (fun (d : Distance) => putS32 d.amount ++ put8 d.unit.code) c.remaining ++
  rowBytes c.demands ++ putOption 1 (fun (a : FenceAlert) => put8 a.code.code) c.alert

/-! ### Caps and economy -/

/-- Selector 0x0B (R84). A limiting contributor is a kind byte and a number byte, 0 where the kind has no
number (DESIGN CHOICE, log 10). -/
def capBytes (caps : Eight CapRec) : List Byte :=
  (caps.toList.map fun c => put16 c.value ++ put8 c.limiting.code ++ put8 c.limiting.number).flatten

/-- The row of a demand table at a READ index, 1 to 42 (R168). -/
def DemandTable.row (t : DemandTable) (i : Nat) : Option Row :=
  if i = 0 then none
  else if i ≤ 16 then some (t.slots.getD (i - 1) Row.free)
  else if i = 17 then some t.crawl
  else if i ≤ 41 then some (t.items.getD (i - 18) Row.free)
  else if i = 42 then some t.guard
  else none

/-- Eight quantised caps. -/
def quantisedBytes (q : Eight Nat) : List Byte := (q.toList.map put8).flatten

/-- Selector 0x0D (R92, R93). -/
def echoBytes (m : Merger) : List Byte :=
  put8 m.check.code ++ put8 m.mismatched.toByte ++ putOption 8 quantisedBytes m.lastSent ++
  putOption 8 quantisedBytes m.sentBefore

/-- Selector 0x0E (R96; then the state in the order of R113 with the five caps as ECON_STATUS has them (R105,
R111), and the steps of R106). The previous arrival is shown as a flag, 1 for present (DESIGN CHOICE, log 10). -/
def econBytes (s : State) : List Byte :=
  let c := s.econ
  put16 c.engine.speed ++ put8 c.engine.load ++ put16 c.engine.fuel ++ put8 c.engine.derate ++
  putFlag c.engine.running ++ put16 c.engine.age ++ putFlag c.engine.previous ++
  put8 c.selection ++ put8 c.manualStep ++ put8 c.mode.code ++ put8 c.count ++ put16 c.sum ++ put8 c.down ++
  putOption 1 put8 c.average ++ put8 c.operatorCap ++ put8 c.siteCap ++ put8 s.step.serviceCap ++
  put8 s.phaseCap ++ put8 s.fenceCap ++ put8 c.cycleCopy.code ++ putFlag c.travelCopy ++ putFlag c.stopCopy ++ put8 c.idle.code ++
  put32 c.idleTimer ++ putFlag s.step.floorStands ++ put8 s.step.chosen ++ put8 s.step.limiting.code ++
  put8 s.step.issued

/-- Selector 0x0F (R98). -/
def settingsBytes (e : EconSettings) : List Byte :=
  (e.steps.map fun r => put16 r.rpm ++ put8 r.threshold ++ put8 r.weight).flatten ++
  ([e.startStep, e.siteStepCap, e.idleDelay, e.floorStep, e.fenceStep, e.capIdle, e.capDigging, e.capLoaded,
    e.capDumping, e.capEmpty, e.capTravel].map put8).flatten

/-! ### Service accounts -/

/-- Selector 0x10 (R116). -/
def accountBytes (m : Meters) (c : Charging) : List Byte :=
  meterBytes m ++ put8 c.step ++ putFlag c.running ++ putFlag c.high

/-- Selector 0x11 (R122). A function derate has one presence byte before its set and its cap, and a standing
alert is a presence byte, 0 for none, and its code (DESIGN CHOICE, log 10). -/
def itemBytes (i : Item) : List Byte :=
  put8 i.defn.number ++ put16 i.defn.label ++ put8 i.defn.basis.code ++ put32 i.defn.interval ++
  put8 i.defn.warn ++ put32 i.defn.margin ++ putFlag i.defn.cabSignOff ++
  putOption 3 (fun (p : Eight Bool × Nat) => put8 p.1.toByte ++ put16 p.2) i.defn.funcDerate ++
  putOption 1 put8 i.defn.stepDerate ++
  usageBytes i.usage ++
  putOption 1 (fun (a : ItemAlert) => put8 a.code.code) i.alert

/-! ### Alerts -/

/-- Selector 0x12, index 0 (R168). The offered entry is a presence byte, its code and its subject (DESIGN
CHOICE, log 10). -/
def alertHeaderBytes (a : Alerts) : List Byte :=
  put8 a.entries.length ++ put8 a.mask ++ putFlag a.notListed ++
  putOption 2 (fun (e : AlertEntry) => put8 e.code.code ++ put8 e.subject.byte) a.offered

/-- Selector 0x12, an entry (R134). -/
def alertEntryBytes (e : AlertEntry) : List Byte :=
  put8 e.code.code ++ put8 e.subject.byte ++ put8 e.priority ++ put8 e.code.cls.code ++ put32 e.seq ++
  putFlag e.acked ++ putFlag e.inService ++ putFlag e.resolved ++ put8 e.repeats ++ put32 e.hourAt

/-! ### Plans and transfers -/

/-- Selector 0x13 (R147, R159). One presence byte stands before the identity, and one before the length and
checksum of each section, section by section (DESIGN CHOICE, log 10). -/
def planBytes (p : PlanStore) : List Byte :=
  putOption 6 (fun (a : ActivePlan) => put32 a.number ++ put16 a.revision) p.active ++
  (planSections.map fun k =>
    putOption 4 (fun (a : ActivePlan) => put16 (a.bytes.get k).length ++ put16 (a.sums.get k).toNat)
      p.active).flatten ++
  put8 p.image.code

/-- Selector 0x14: the content of a section as committed (R170), preceded by a presence byte, which is all that
is shown under NO_PLAN (DESIGN CHOICE, log 10). -/
def contentBytes (p : PlanStore) (k : Section) : List Byte :=
  match p.active with
  | some a => 1 :: a.bytes.get k
  | none => [0]

/-- Selector 0x15 (R150, R148). The section being received, its declared length and the expected offset follow
the state under one presence byte; the timers are in ms, 2 bytes each; and flag, length and checksum are shown
region by region (DESIGN CHOICE, log 10). -/
def transferBytes (p : PlanStore) : List Byte :=
  put8 p.xfer.code ++
  putOption 5 (fun (r : Section × Nat × Nat) => put8 r.1.code ++ put16 r.2.1 ++ put16 r.2.2)
    (if p.xfer = .receiving then some (p.receiving, p.declared, p.expected) else none) ++
  put16 p.requestTimer ++ put16 p.inactTimer ++
  (p.staging.toList.map fun r => putFlag r.received ++ put16 r.length ++ put16 r.sum.toNat).flatten

/-! ### Links, ports, power -/

/-- Selector 0x16 (R167). -/
def linkBytes (l : LinkRec) : List Byte := put8 l.state.code ++ put16 l.silence

/-- Selector 0x17 (R166). -/
def portBytes (p : PortRec) : List Byte :=
  put8 p.bus.code ++ put8 p.errors ++ put8 p.recovery ++ put8 p.busOffs

/-- Selector 0x18 (R164). A presence byte, 0 for EMPTY, stands before the record (DESIGN CHOICE, log 10). -/
def faultBytes (f : Option FaultRec) : List Byte :=
  putOption 9
    (fun (r : FaultRec) =>
      [r.node] ++ put16 r.kind.number.toNat ++ put8 r.result.code ++ put32 r.hour ++ putFlag r.more) f

/-- Selector 0x19 (spec/11, head). The slot being written has a presence byte, and the timer is in ms, 4 bytes
(DESIGN CHOICE, log 10). An account slot's sequence number is shown without a presence byte, of an invalid slot
the one it last held (DESIGN CHOICE, log 3). -/
def controllerBytes (s : State) : List Byte :=
  put8 s.power.code ++ putFlag s.chip.slotA.valid ++ put32 s.chip.slotA.seq ++ putFlag s.chip.slotB.valid ++
  put32 s.chip.slotB.seq ++ put32 s.ctrl.current ++ put8 (if s.ctrl.writing.isSome then 1 else 0) ++
  putOption 1 (fun (w : Writing) => put8 w.slot.code) s.ctrl.writing ++ putFlag s.ctrl.pendingCkpt ++
  putFlag s.ctrl.parkingCkpt ++ putFlag s.ctrl.accountsLost ++ put32 s.ctrl.awakeTimer

/-! ### Selectors (R168) -/

/-- What a selector and an index name. -/
inductive Snap where
  | unknown
  | noItem
  | record (bytes : List Byte)
  deriving DecidableEq, Repr

/-- A record of a selector that has only index 0. -/
def only (i : Nat) (bytes : List Byte) : Snap := if i = 0 then .record bytes else .noItem

/-- A record that an index may or may not name. -/
def named (r : Option (List Byte)) : Snap :=
  match r with
  | some bs => .record bs
  | none => .noItem

/-- The snapshot of a selector and an index. -/
def snapshot (s : State) (selector index : Nat) : Snap :=
  match selector with
  | 0x01 => named ((jointOf index).map fun j => jointBytes (s.meas.joint j))
  | 0x02 => only index (frameBytes s.meas.frame)
  | 0x03 => only index (slewBytes s.meas.slew)
  | 0x04 => only index (pressBytes s.meas.press)
  | 0x05 => only index (poseBytes s.pose.record)
  | 0x06 => only index (cycleBytes s.cycle)
  | 0x07 => only index (benchBytes s.grade.bench)
  | 0x08 => only index (guideBytes s.grade)
  | 0x09 => named ((s.inForce.panels.find? fun p => p.number == index).map panelBytes)
  | 0x0A => if slotExists index then .record (fenceBytes index (slotAt s.env.slots index)) else .noItem
  | 0x0B => only index (capBytes s.caps.caps)
  | 0x0C => named ((s.caps.rows.row index).map rowBytes)
  | 0x0D => only index (echoBytes s.caps)
  | 0x0E => only index (econBytes s)
  | 0x0F => only index (settingsBytes s.inForce.econ)
  | 0x10 => only index (accountBytes s.svc.meters s.charge)
  | 0x11 => named ((findItem s.svc.items index).map itemBytes)
  | 0x12 =>
    if index = 0 then .record (alertHeaderBytes s.alerts)
    else if Config.alertEntries < index then .noItem
    else named (s.alerts.entries[index - 1]?.map alertEntryBytes)
  | 0x13 => only index (planBytes s.plan)
  | 0x14 => named ((planSections[index]?).map (contentBytes s.plan))
  | 0x15 => only index (transferBytes s.plan)
  | 0x16 => named ((Party.ofNode (BitVec.ofNat 8 index)).map fun p => linkBytes (s.links.get p))
  | 0x17 =>
    match index with
    | 0 => .record (portBytes s.ports.implement)
    | 1 => .record (portBytes s.ports.powertrain)
    | _ => .noItem
  | 0x18 => only index (faultBytes s.fault)
  | 0x19 => only index (controllerBytes s)
  | _ => .unknown

end Sys2Proof.Machine
end

