-- ==== Sys2Proof/Machine/HandOn.lean ====
section
/-! DEFINITION. What the blocks hand to one another within an event: the evaluations of the Pose Unit, the
Cycle Monitor, the Grade Guide and the Envelope Unit, and who is evaluated for a change of the measurement
records (R17, R25, R36, R49, R59). -/

namespace Sys2Proof.Machine

/-! ### Evaluations -/

/-- The Pose Unit evaluates (R25), and judges TILT (R31). -/
def Ev.evalPose (e : Ev) : Ev :=
  let p := e.st.meas.poseIn
  (e.hand .pose (edgeOps e.st.pose.tilt p.tilt .tilt .none)).upd fun s =>
    { s with pose := { record := s.pose.record.evaluate s.inForce.geom p, tilt := p.tilt } }

/-- What the Cycle Monitor reads. -/
def State.cycleIn (s : State) : CycleIn :=
  { pose := s.pose.record, pump := s.meas.press.pump, dir := s.meas.slew.dir,
    travel := s.meas.press.travelFlag, limits := s.inForce.limits }

/-- The Cycle Monitor evaluates (R36): a change of state goes to the Economy Unit, a completion to the
Service Account Unit (R38, R39, R121). -/
def Ev.evalCycle (e : Ev) : Ev :=
  e.upd fun s =>
    let r := s.cycle.evaluate s.cycleIn
    { s with
      cycle := r.1
      econ := if r.1.state = s.cycle.state then s.econ else { s.econ with cycleCopy := r.1.state }
      svc := if r.2 then s.svc.addCycle else s.svc }

/-- The Grade Guide evaluates (R49), with the alert of its guard (R53). -/
def Ev.evalGrade (e : Ev) : Ev :=
  let g := e.st.grade.evaluate e.st.planActive e.st.inForce e.st.pose.record
  (e.hand .grade (guardOps e.st.grade.guard g.guard)).upd fun s => { s with grade := g }

/-- The slots as an evaluation judges them, standing alerts aside (R59). -/
def State.judgedSlots (s : State) : List FenceSlot :=
  s.env.slots.map fun c => c.evaluate s.inForce.limits s.pose.record s.meas.slew.validAngle

/-- The Envelope Unit evaluates (R59, R68), with its alerts (R71, R72) and its stop-in-force signal to the
Economy Unit (R70, R105). The slots' alerts are handed before SLEW_UNINDEXED, which R71, R72 and R138 leave
open (DESIGN CHOICE, log 11). -/
def Ev.evalEnv (e : Ev) : Ev :=
  let slots := e.st.judgedSlots
  let lost := e.st.meas.slew.validAngle.isNone
  (e.hand .envelope (fenceOps slots ++ edgeOps e.st.env.unindexed lost .slewUnindexed .none)).upd fun s =>
    { s with
      env := { slots := settleSlots slots, crawl := crawlRow s.inForce.limits.crawl (!lost) s.planActive,
               unindexed := lost }
      econ := { s.econ with stopCopy := stopInForce slots } }

/-! ### Changes of the measurement records (R17, R32) -/

/-- The pose is evaluated when its inputs changed (R25). -/
def Ev.passPose (e : Ev) : Ev := if e.old.meas.poseIn = e.st.meas.poseIn then e else e.evalPose

/-- The event changed the pose record, which is then handed on (R32). -/
def Ev.poseMoved (e : Ev) : Bool := e.old.pose.record != e.st.pose.record

/-- The cycle is evaluated when the pose record, the slew direction, the pump pressure or a pilot flag
changed (R36). -/
def Ev.passCycle (e : Ev) : Ev :=
  if e.poseMoved || e.old.meas.slew.dir != e.st.meas.slew.dir ||
      e.old.meas.press.pump != e.st.meas.press.pump ||
      e.old.meas.press.travelFlag != e.st.meas.press.travelFlag ||
      e.old.meas.press.implementFlag != e.st.meas.press.implementFlag then e.evalCycle
  else e

/-- The guidance is evaluated when the pose record changed (R49). -/
def Ev.passGrade (e : Ev) : Ev := if e.poseMoved then e.evalGrade else e

/-- In RUN the fences are evaluated when the pose record, the slew angle, its validity or the index state
changed (R59). -/
def Ev.passEnv (e : Ev) : Ev :=
  if e.st.power == .run && (e.poseMoved || e.old.meas.slew.validAngle != e.st.meas.slew.validAngle ||
      e.old.meas.slew.state != e.st.meas.slew.state) then e.evalEnv
  else e

/-- The pilot flags go to the Economy Unit when one changed (R17, R108, R109). -/
def Ev.passPilots (e : Ev) : Ev :=
  if e.old.meas.press.travelFlag != e.st.meas.press.travelFlag ||
      e.old.meas.press.implementFlag != e.st.meas.press.implementFlag then
    e.upd fun s => { s with econ := s.econ.takePilots s.meas.press }
  else e

/-- The high-pressure flag goes to the Service Account Unit when it changed (R17, R120). -/
def Ev.passHigh (e : Ev) : Ev :=
  if e.old.meas.press.highFlag = e.st.meas.press.highFlag then e
  else e.upd fun s => { s with charge := { s.charge with high := s.meas.press.highFlag } }

/-- The changes of the measurement records handed to every block that depends on them (R17), and the item
alerts of the gains they bring settled (R126). -/
def Ev.handOn (e : Ev) : Ev :=
  e.passPose.passCycle.passGrade.passEnv.passPilots.passHigh.settleService

/-- FENCES_UNVERIFIED raised or withdrawn by the flags of two tables (R78, R81). -/
def verifiedOps (before after : List FenceSlot) : List AlertOp :=
  edgeOps (unverified before) (unverified after) .fencesUnverified .none

/-- The fence table replaced by an edit or a verification change, which hands on FENCES_UNVERIFIED at once
(R78, R79). -/
def Ev.setSlots (e : Ev) (slots : List FenceSlot) : Ev :=
  (e.hand .envelope (verifiedOps e.st.env.slots slots)).upd fun s =>
    { s with env := { s.env with slots := slots } }

/-- A travel-start event (R9): a CURRENT benchmark becomes STALE and the guidance is evaluated (R44, R49);
every verified flag is cleared (R78). -/
def Ev.travelStart (e : Ev) : Ev :=
  let g := if e.st.grade.bench.state = .current then
      (e.upd fun s => { s with grade := { s.grade with bench := s.grade.bench.staled } }).evalGrade
    else e
  g.setSlots (setVerified g.st.env.slots false)

end Sys2Proof.Machine
end

