-- ==== Sys2Proof/Machine/Finish.lean ====
section
/-! DEFINITION. The end of every event: rows and the service cap handed on (R85, R89, R105, R127), the step
judged (R106), the charging state (R106), messages placed on change or at the entry to RUN (R50, R80, R88,
R110, R111, R128), the alerts taken (R138) and the offer placed (R142). -/

namespace Sys2Proof.Machine

/-! ### Rows and caps -/

/-- The rows as their owners hold them. -/
def State.ownRows (s : State) : DemandTable :=
  { slots := s.env.slots.map fun c => c.demands, crawl := s.env.crawl, items := itemRows s.svc.items,
    guard := guardRow s.grade.demand }

/-- A row handed on when its owner changed it (R54, R69, R127). R129 has a commit hand on the rows of every
item whose record or state changed, under R127, which hands on a changed row alone: an item's row that a
commit leaves as it was is not handed on (DESIGN CHOICE, log 33). -/
def handRow (before after held : Row) : Row := if before = after then held else after

/-- Rows handed on, place by place. -/
def handRows : List Row → List Row → List Row → List Row
  | b :: bs, a :: as, h :: hs => handRow b a h :: handRows bs as hs
  | _, _, hs => hs

/-- The demand table with the rows that changed replaced (R85). -/
def DemandTable.take (held before after : DemandTable) : DemandTable :=
  { slots := handRows before.slots after.slots held.slots, crawl := handRow before.crawl after.crawl held.crawl,
    items := handRows before.items after.items held.items, guard := handRow before.guard after.guard held.guard }

/-- The Cap Merger with this demand table, merged (R85, R86). -/
def Merger.withRows (m : Merger) (t : DemandTable) : Merger := { m with rows := t, caps := mergeAll t }

/-- Rows handed on, and merged once; at the entry to RUN the whole table is taken afresh (R85, R89). -/
def Ev.passRows (e : Ev) : Ev :=
  if e.runEntry then e.upd fun s => { s with caps := s.caps.withRows s.ownRows }
  else if e.old.ownRows = e.st.ownRows then e
  else e.upd fun s => { s with caps := s.caps.withRows (s.caps.rows.take e.old.ownRows s.ownRows) }

/-- The service cap handed on when it changed, and taken afresh at the entry to RUN (R105, R127). R129 has
a commit hand it on for every item whose record or state changed, under R127, which hands on a changed cap
alone: a commit that leaves the cap of the items as it was hands on none (DESIGN CHOICE, log 33). -/
def Ev.passServiceCap (e : Ev) : Ev :=
  if e.runEntry || serviceCap e.old.svc.items != serviceCap e.st.svc.items then
    e.upd fun s => { s with step := { s.step with serviceCap := serviceCap s.svc.items } }
  else e

/-- The step judged in RUN when an input changed, and at the entry to RUN (R106, R107). R106 judges at every
event that changes an input, while R114 and R115 speak of judgements in RUN and at the entry to RUN alone: no
event outside RUN is judged (DESIGN CHOICE, log 6). -/
def Ev.passStep (e : Ev) : Ev :=
  if e.st.power == .run && (e.runEntry || e.old.stepIn != e.st.stepIn) then
    (e.hand .economy (floorOps e.st.step.floorStands e.st.stepIn.floorHolds)).upd fun s =>
      { s with step := s.step.judge s.stepIn }
  else e

/-- The issued step and the effective running flag handed to the Service Account Unit when one changed
(R106). -/
def Ev.passCharge (e : Ev) : Ev :=
  if e.old.effectiveRunning != e.st.effectiveRunning || e.old.step.issued != e.st.step.issued then
    e.upd fun s =>
      { s with charge := { s.charge with step := s.step.issued, running := s.effectiveRunning } }
  else e

/-! ### Placings -/

/-- GRADE_STATUS placed (R50). -/
def State.placeGrade (s : State) : State :=
  { s.place .gradeStatus .cab (gradeStatusData s.grade) with periods := { s.periods with grade := 0 } }

/-- ENVELOPE_STATUS placed (R80). -/
def State.placeEnvelope (s : State) : State :=
  { s.place .envelopeStatus .cab (envelopeStatusData s) with periods := { s.periods with envelope := 0 } }

/-- CAP_SET placed (R88). -/
def State.placeCapSet (s : State) : State :=
  { s.place .capSet .valve (capSetData s.caps.caps) with
    caps := { s.caps with lastPlaced := some (capSetData s.caps.caps) }
    periods := { s.periods with capSet := 0 } }

/-- STEP_DEMAND placed (R110). -/
def State.placeStep (s : State) : State :=
  { s.place .stepDemand .engine (stepDemandData s.step.issued s.targetRpm) with
    step := { s.step with lastDemand := some (s.step.issued, s.targetRpm) }
    periods := { s.periods with step := 0 } }

/-- ECON_STATUS placed (R111). -/
def State.placeEcon (s : State) : State :=
  { s.place .econStatus .cab (econStatusData s) with periods := { s.periods with econ := 0 } }

/-- SERVICE_STATUS placed (R128). -/
def State.placeService (s : State) : State := s.place .serviceStatus .cab (serviceStatusData s.svc)

/-- ALERT_OFFER placed (R142). -/
def State.placeOffer (s : State) : State :=
  { s.place .alertOffer .cab (alertOfferData s.alerts) with
    alerts := { s.alerts with lastOffer := some (offerKey s.alerts) } }

/-- CAP_SET is due: sending, and either beginning or with other content than the one placed last (R88). -/
def Ev.capSetDue (e : Ev) : Bool :=
  e.st.caps.sending && (e.runEntry || e.st.caps.lastPlaced != some (capSetData e.st.caps.caps))

/-- GRADE_STATUS is due (R50). -/
def Ev.gradeDue (e : Ev) : Bool :=
  e.runEntry || e.old.grade.guide.status != e.st.grade.guide.status || e.old.grade.guard != e.st.grade.guard

/-- ENVELOPE_STATUS is due (R80). -/
def Ev.envelopeDue (e : Ev) : Bool := e.runEntry || envelopeStatusData e.old != envelopeStatusData e.st

/-- STEP_DEMAND is due (R110). -/
def Ev.stepDue (e : Ev) : Bool :=
  e.runEntry || e.st.step.lastDemand != some (e.st.step.issued, e.st.targetRpm)

/-- ECON_STATUS is due: a field other than the window count changed (R111). -/
def Ev.econDue (e : Ev) : Bool := e.runEntry || econStatusWith e.old 0 != econStatusWith e.st 0

/-- SERVICE_STATUS is due (R128). -/
def Ev.serviceDue (e : Ev) : Bool :=
  e.runEntry || e.statusDue || itemStates e.old.svc.items != itemStates e.st.svc.items

/-- A state changed when a condition holds. -/
def State.when (s : State) (c : Bool) (f : State → State) : State := if c then f s else s

/-- The messages of an event placed: CAP_SET while sending, the others in RUN. -/
def Ev.passMessages (e : Ev) : Ev :=
  let inRun := e.st.power == .run
  e.upd fun s =>
    (((((s.when e.capSetDue State.placeCapSet).when (inRun && e.gradeDue) State.placeGrade).when
      (inRun && e.envelopeDue) State.placeEnvelope).when (inRun && e.stepDue) State.placeStep).when
      (inRun && e.econDue) State.placeEcon).when (inRun && e.serviceDue) State.placeService

/-! ### Alerts -/

/-- The raises and withdrawals of the event taken (R138). An event with several owners takes the next free
value for their order (log 8). -/
def Ev.takeAlerts (e : Ev) : Ev :=
  let batches := byOwner e.ops
  e.upd fun s =>
    { s with
      alerts := applyOps s.svc.meters.hour s.alerts (opsInOrder (Config.ownerOrder s.orders) batches)
      orders := if 2 ≤ batches.length then s.orders + 1 else s.orders }

/-- ALERT_OFFER is due (R142). -/
def Ev.alertOfferDue (e : Ev) : Bool :=
  e.runEntry || e.offerDue || e.st.alerts.lastOffer != some (offerKey e.st.alerts) ||
    e.old.alerts.notListed != e.st.alerts.notListed || e.old.alerts.mask != e.st.alerts.mask

/-- The offer placed in RUN when it is due (R142). -/
def Ev.passOffer (e : Ev) : Ev := e.upd fun s => s.when (s.power == .run && e.alertOfferDue) State.placeOffer

/-- The end of an event. -/
def Ev.finish (e : Ev) : State :=
  e.passRows.passServiceCap.passStep.passCharge.passMessages.takeAlerts.passOffer.st

end Sys2Proof.Machine
end

