-- ==== Sys2Proof/Machine/PowerSettings.lean ====
section
/-! DEFINITION. The settings of every block at the entry to RUN (R89), at the entry to PARKING (R175), at a
wake (R176) and at a cold start (R172), and the ways into PARKED (R175, R177). -/

namespace Sys2Proof.Machine

/-! ### Start requests (R151) -/

/-- PLAN_WANTED placed with a reason, the transfer REQUESTED and the request timer started (R151). -/
def State.wantPlan (s : State) (why : WantReason) : State :=
  { s.place .planWanted .gateway (planWantedData why s.plan.active) with
    plan := { s.plan with xfer := .requested, requestTimer := requestTime } }

/-- The pending start request made, when the transfer is IDLE (R151). -/
def State.startRequest (s : State) : State :=
  if s.plan.startPending && s.plan.xfer == .idle then
    let s := s.wantPlan .start
    { s with plan := { s.plan with startPending := false } }
  else s

/-! ### The entry to RUN -/

/-- The entry to RUN, from whichever state: the fences are evaluated (R59), the Cap Merger begins sending
(R89), the idle timer starts at 0 (R114), and a pending start request is made (R151). The end of the event
takes the rows, judges the step and places the messages. The service-awake timer, which runs in SERVICE_AWAKE
alone, stands at 0 (DESIGN CHOICE, log 32). -/
def Ev.enterRun (e : Ev) : Ev :=
  let e := { e with runEntry := true }.upd fun s =>
    { s with
      power := .run
      ctrl := { s.ctrl with awakeTimer := 0 }
      caps := { s.caps with sending := true }
      econ := { s.econ with idleTimer := 0, engine := { s.econ.engine with previous := false } } }
  e.evalEnv.upd State.startRequest

/-! ### The entry to PARKING -/

/-- Measurement Unit, Pose Unit and Cycle Monitor at the entry to PARKING (R19, R33, R31, R40). The pose
becomes INVALID, which takes the Cycle Monitor to IDLE (R35). -/
def Ev.parkMeasures (e : Ev) : Ev :=
  let s := e.st
  let after := coldMeas s.meas.slew.nrev s.meas.slew.reversals
  ((e.hand .measurement (measWithdrawals s.meas after)).hand .pose
      (edgeOps s.pose.tilt false .tilt .none)).upd fun s =>
    { s with
      meas := after
      pose := { record := coldPose, tilt := false }
      cycle := if s.cycle.state = .idle then s.cycle else { s.cycle with state := .idle, age := 0 }
      charge := { s.charge with high := false } }

/-- The Grade Guide at the entry to PARKING (R55). -/
def Ev.parkGrade (e : Ev) : Ev :=
  (e.upd fun s => { s with grade := { s.grade with guardOn := false } }).evalGrade

/-- The Envelope Unit at the entry to PARKING (R83). -/
def Ev.parkEnv (e : Ev) : Ev :=
  let s := e.st
  (e.hand .envelope
      (fenceWithdrawals s.env.slots ++ edgeOps s.env.unindexed false .slewUnindexed .none)).upd fun s =>
    { s with env :=
        { slots := s.env.slots.map fun c => { c.unjudged s.inForce.limits with alert := none }
          crawl := crawlRow s.inForce.limits.crawl false s.planActive
          unindexed := false } }

/-- The Cap Merger and the Economy Unit at the entry to PARKING (R90, R95, R114). -/
def Ev.parkOutputs (e : Ev) : Ev :=
  let s := e.st
  ((e.hand .caps (echoOps s.caps.check .noReference)).hand .economy (floorOps s.step.floorStands false)).upd
    fun s =>
      { (((s.unplace .capSet .valve).unplace .stepDemand .engine).unplace .econStatus .cab).unplace
          .alertOffer .cab with
        caps := s.caps.halt
        econ := s.econ.park
        step := { s.step with floorStands := false } }

/-- The parking checkpoint asked for (R175): a checkpoint in flight is none of it. -/
def State.requestParking (s : State) : State :=
  State.requestCheckpoint
    { s with ctrl := { s.ctrl with
        parkingCkpt := true
        writing := s.ctrl.writing.map fun w => { w with parking := false } } }

/-- The entry to PARKING from RUN (R171, R175). -/
def Ev.enterParking (e : Ev) : Ev :=
  (e.upd fun s => { s with power := .parking }).parkMeasures.parkGrade.parkEnv.parkOutputs.upd fun s =>
    ({ s with plan := s.plan.abort }).requestParking

/-! ### A wake -/

/-- The blocks at a wake, alerts aside (R19, R33, R40, R55, R82, R91, R113, R145, R148, R165 to R168). The
chosen and issued steps and the limiting input, which R113 does not name, keep those of the last session until
the entry to RUN (DESIGN CHOICE, log 6). -/
def State.wake (s : State) : State :=
  { s with
    meas := coldMeas s.meas.slew.nrev 0
    pose := { record := coldPose, tilt := false }
    cycle := coldCycle s.cycle.total
    grade := ({ s.grade with bench := s.grade.bench.staled, guardOn := false }).evaluate s.planActive s.inForce
      coldPose
    env := { s.env with
      slots := (setVerified s.env.slots false).map fun c => { c with alert := none }
      unindexed := false }
    caps := coldMerger
    econ := coldEcon s.inForce.econ.startStep s.econ.operatorCap s.econ.siteCap
    step := { s.step with floorStands := false, lastDemand := none }
    svc := { s.svc with items := settleItems s.svc.items }
    alerts := emptyAlerts s.alerts.nextSeq
    plan := s.plan.abandon
    periods := zeroPeriods
    ports := coldPorts
    links := coldLinks
    fault := none
    reads := noReads }

/-- The alerts that the owners raise into a list that begins empty: the service items, PLAN_NONE and
STORE_ACCOUNTS_LOST (R133, R160, R172, R176). -/
def Ev.raiseStanding (e : Ev) : Ev :=
  let s := e.st
  ((e.hand .service (itemOps (s.svc.items.map fun i => { i with alert := none }))).hand .plan
      (if s.planActive then [] else [raiseOp .planNone .none])).hand .store
    (if s.ctrl.accountsLost then [raiseOp .storeAccountsLost .none] else [])

/-- A wake (R176): every block's settings, FENCES_UNVERIFIED when any slot is occupied (R82), and the alerts
that stand. The settings are not handed on as changes. -/
def Ev.wake (e : Ev) : Ev :=
  let e := (e.upd State.wake).rebase
  (e.hand .envelope (edgeOps false (unverified e.st.env.slots) .fencesUnverified .none)).raiseStanding

/-! ### A cold start (R172) -/

/-- Slot A is chosen over slot B when both are valid: the higher sequence, 1 above 4294967295, A when they are
equal. -/
def slotABeats (a b : Nat) : Bool :=
  if a = 1 ∧ b = Config.maxU32 then true
  else if b = 1 ∧ a = Config.maxU32 then false
  else decide (b ≤ a)

/-- The account slot a cold start chooses, if any. -/
def Chip.choose (c : Chip) : Option AccountSlot :=
  match c.slotA.valid, c.slotB.valid with
  | true, true => some (if slotABeats c.slotA.seq c.slotB.seq then c.slotA else c.slotB)
  | true, false => some c.slotA
  | false, true => some c.slotB
  | false, false => none

/-- The slots at a cold start: SITE slots from the restored plan, all INDETERMINATE, CAB slots EMPTY (R82). -/
def coldSlots (c : Limits) (fences : List (Nat × FenceGeom)) : List FenceSlot :=
  (planSlots (List.replicate Config.fenceSlots emptySlot) fences).map fun k => k.unjudged c

/-- Every block at a cold start, alerts aside, from the chosen slot and the restored plan (R18, R33, R40, R55,
R82, R91, R113, R132, R145, R148, R159, R164 to R168, R172). -/
def State.coldWith (s : State) (slot : Option AccountSlot) (plan : Option (ActivePlan × PlanContent)) : State :=
  let image := slot.map fun k => k.image
  let f := match plan with | some p => p.2.inForce | none => builtinInForce
  let svc := restoreService image (plan.map fun p => p.2.items)
  { s with
    ctrl := { coldCtrl with
      current := match slot with | some k => k.seq | none => 0
      accountsLost := slot.isNone }
    plan := { coldPlanStore with
      active := plan.map fun p => p.1
      image := if plan.isSome then .valid else .absent
      startPending := plan.isNone }
    inForce := f
    meas := coldMeas (restoredNrev f.limits.nominalNrev (image.map fun a => a.nrev)) 0
    pose := { record := coldPose, tilt := false }
    cycle := coldCycle (match image with | some a => a.meters.digCycles | none => 0)
    grade := coldGrade.evaluate plan.isSome f coldPose
    env := { slots := coldSlots f.limits (match plan with | some p => p.2.fences | none => [])
             crawl := crawlRow f.limits.crawl false plan.isSome, unindexed := false }
    caps := coldMerger
    econ := coldEcon f.econ.startStep 10 f.econ.siteStepCap
    step := coldStep
    charge := coldCharging
    svc := { svc with items := settleItems svc.items }
    alerts := emptyAlerts s.alerts.nextSeq
    periods := zeroPeriods
    ports := coldPorts
    links := coldLinks
    fault := none
    reads := noReads }

/-- The cold start event (R172): the slot is chosen, the plan image judged, every block set, and the alerts
that stand raised. The settings are not handed on as changes. -/
def Ev.coldStart (e : Ev) : Ev :=
  (e.upd fun s => s.coldWith s.chip.choose (restorePlan s.chip.image)).rebase.raiseStanding

end Sys2Proof.Machine
end

