-- ==== Sys2Proof/WellFormed.lean ====
section
/-! DEFINITION. Which commands the machine's surroundings can send: data fields no longer than the port
carries, a FRAME_NOT_FOR_PART that is none of the other rows, a power step that exists. -/

namespace Sys2Proof

/-- A frame's data field fits its port (spec/10, introduction). -/
def Frame.fits (f : Frame) : Bool := decide (f.data.length ≤ f.port.maxData)

/-- A frame of this kind is none that reaches an owner or a judgement (R162). -/
def notForPart (kind : BitVec 10) (f : Frame) : Bool :=
  match RxKind.ofNumber kind with
  | some k => !k.reaches f
  | none => true

/-- The port a kind of message leaves by (R163, R165 and the rules of its owner). -/
def TxKind.leavesBy (k : TxKind) (dest : Byte) (p : Port) : Bool :=
  match k with
  | .capSet => p == .implement && dest == Party.node .valve
  | .stepDemand => p == .powertrain && dest == Party.node .engine
  | .gradeStatus | .envelopeStatus | .econStatus | .serviceStatus | .alertOffer =>
    p == .implement && dest == Party.node .cab
  | .planWanted | .xferReady | .xferSum | .xferResult => p == .powertrain && dest == Party.node .gateway
  | .reqResult | .readData =>
    match Party.ofNode dest with
    | some q => q != .sensor && q.port == p
    | none => false

/-- Whether a command can be sent to the part at all. -/
def Instr.wellFormed : Instr → Bool
  | .jointSample f | .frameSample f | .slewSample f | .pressureSample f | .engineStatus f | .valveStatus f
  | .benchmarkCapture f | .guardSet f | .fenceSet f | .fenceClear f | .fencesConfirm f | .econMode f
  | .econCap f | .siteStepCap f | .serviceDefer f | .serviceDone f | .alertTake f | .alertRelease f
  | .alertMask f | .planRequest f | .xferOpen f | .xferData f | .xferEnd f | .xferAbort f | .read f
  | .faultClear f | .wake f | .sleep f => f.fits
  | .frameNotForPart kind f => f.fits && notForPart kind f
  | .txSuccess p (some m) => m.kind.leavesBy m.dest p && decide (m.data.length ≤ p.maxData)
  | .txSuccess _ none => true
  | .hundredthHourCompletion step => decide (1 ≤ step) && decide (step ≤ Config.powerSteps)
  | .txError _ | .portRejoin _ | .keyOn | .keyOff | .powerLoss _ | .coldStart | .startingReadComplete
  | .checkpointReport _ | .planImageWriteReport _ | .pendingCheckpointStart | .planImageWriteStart
  | .enterParked | .startPlanWanted | .readNextPage _ | .jointHeldExpiry _ | .jointInvalidExpiry _
  | .frameHeldExpiry | .frameInvalidExpiry | .slewExpiry | .abandonTimeExpiry | .idleDelayExpiry
  | .highPressureMinute | .gradeStatusPeriod | .envelopeStatusPeriod | .capSetPeriod | .stepDemandPeriod
  | .econStatusPeriod | .echoTimerExpiry | .linkSilentExpiry _ | .linkOfflineExpiry _
  | .requestTimerExpiry | .inactivityTimerExpiry | .serviceAwakeTimerExpiry | .recessiveRunObserved _ => true

end Sys2Proof
end

