-- ==== Sys2Proof/Machine/Receive.lean ====
section
/-! DEFINITION. The judgement of an arriving frame (R162) and of a request (R163): who is heard, what reaches
its owner, permissions and lengths. -/

namespace Sys2Proof.Machine

/-- The party a frame is heard from (R162, test 1): the part listens, the port is ON_BUS, and the source is a
node of that port. -/
def State.hears (s : State) (f : Frame) : Option Party :=
  if s.power.listening && (s.ports.get f.port).bus == .onBus then
    match Party.ofNode f.src with
    | some p => if p.port = f.port then some p else none
    | none => none
  else none

/-- A frame is addressed to the part (R162, test 3). -/
def forPart (f : Frame) : Bool := f.dest == partNode || f.dest == broadcastNode

/-- The permission table (R163). -/
def permits (k : RxKind) (p : Party) : Bool :=
  match k with
  | .benchmarkCapture | .guardSet | .fencesConfirm | .econMode | .econCap | .serviceDefer | .alertTake
  | .alertRelease | .alertMask | .planRequest => p == .cab
  | .siteStepCap | .xferOpen | .xferData | .xferEnd | .xferAbort | .wake | .sleep => p == .gateway
  | .fenceSet | .fenceClear | .serviceDone | .read | .faultClear => p == .cab || p == .gateway
  | .jointSample | .frameSample | .slewSample | .pressureSample | .engineStatus | .valveStatus => false

/-- A sample or report received: heard, then handed to its owner when it comes from its proper sender with its
length (R162). -/
def receiveSample (k : RxKind) (f : Frame) (s : State) (body : Ev → Ev) : State :=
  match s.hears f with
  | none => s
  | some p =>
    let e := (Ev.start s).hear p
    (if forPart f && k.sender == some p && k.lengthOk f.data then body e else e).finish

/-- The kinds whose arrival restarts the inactivity timer (R150). -/
def keepsTransfer (k : RxKind) : Bool :=
  match k with
  | .xferOpen | .xferData | .xferEnd => true
  | _ => false

/-- What the arrival of a request from the gateway restarts, taken or refused: the service-awake timer in
SERVICE_AWAKE (R177), and the inactivity timer in OPEN and RECEIVING (R150). -/
def State.gatewayArrival (s : State) (k : RxKind) (p : Party) : State :=
  { s with
    ctrl := if p = .gateway ∧ s.power = .serviceAwake then { s.ctrl with awakeTimer := awakeTime } else s.ctrl
    plan := if p = .gateway ∧ keepsTransfer k = true ∧ (s.plan.xfer = .opened ∨ s.plan.xfer = .receiving) then
        { s.plan with inactTimer := inactivityTime }
      else s.plan }

/-- A request judged (R163): permission, then length, then its owner. -/
def judgeRequest (k : RxKind) (f : Frame) (p : Party) (body : Party → Ev → Ev) (e : Ev) : Ev :=
  if permits k p = false then e.answer p k .refusedPermission 0
  else if k.lengthOk f.data = false then e.answer p k .refusedRange 0
  else body p e

/-- A frame of a request kind received: heard, then judged when it is addressed to the part and comes from a
master (R162, R163). -/
def receiveRequest (k : RxKind) (f : Frame) (s : State) (body : Party → Ev → Ev) : State :=
  match s.hears f with
  | none => s
  | some p =>
    let e := (Ev.start s).hear p
    (if forPart f && p != .sensor then judgeRequest k f p body (e.upd fun s => s.gatewayArrival k p) else e).finish

/-- A request taken in RUN alone: in any other power state it is refused with REFUSED_STATE. -/
def Ev.inRun (e : Ev) (p : Party) (k : RxKind) (body : Ev → Ev) : Ev :=
  if e.st.power = .run then body e else e.answer p k .refusedState 0

/-- A request taken in RUN and SERVICE_AWAKE: in any other power state it is refused with REFUSED_STATE. -/
def Ev.whileAwake (e : Ev) (p : Party) (k : RxKind) (body : Ev → Ev) : Ev :=
  if e.st.power.awake then body e else e.answer p k .refusedState 0

/-- A state handed as the answer of `exec`. -/
abbrev Answer := Host.Outcome State Fault Refusal

end Sys2Proof.Machine
end

