-- ==== Sys2Proof/Machine/Samples.lean ====
section
/-! DEFINITION. The meanings of the samples and reports: JOINT_SAMPLE, FRAME_SAMPLE, SLEW_SAMPLE,
PRESSURE_SAMPLE, ENGINE_STATUS, VALVE_STATUS, and of FRAME_NOT_FOR_PART. -/

namespace Sys2Proof.Machine

/-! ### Measurement records -/

/-- A joint record replaced, with its alerts (R6). -/
def Ev.setJoint (e : Ev) (j : Joint) (r : JointRec) : Ev :=
  (e.hand .measurement (jointOps j (e.st.meas.joint j) r)).upd fun s =>
    { s with meas := s.meas.setJoint j r }

/-- The frame record replaced, with its alert (R7). -/
def Ev.setFrame (e : Ev) (r : FrameRec) : Ev :=
  (e.hand .measurement (frameOps e.st.meas.frame r)).upd fun s => { s with meas := { s.meas with frame := r } }

/-- The slew record replaced. -/
def Ev.setSlew (e : Ev) (r : SlewRec) : Ev := e.upd fun s => { s with meas := { s.meas with slew := r } }

/-- A JOINT_SAMPLE taken (R1 to R4): one whose joint names none is discarded. -/
def Ev.takeJoint (e : Ev) (m : JointIn) : Ev :=
  match m.joint with
  | some j => (e.setJoint j ((e.st.meas.joint j).sample m)).handOn
  | none => e

/-- A FRAME_SAMPLE taken (R7). -/
def Ev.takeFrame (e : Ev) (pitch roll : Int) : Ev := (e.setFrame (e.st.meas.frame.sample pitch roll)).handOn

/-- A SLEW_SAMPLE taken (R10 to R16): its status raises or withdraws SLEW_ENCODER_FAULT (R10), a rejected
candidate raises SLEW_CAL_FAILED (R15), and a reversal goes to the Service Account Unit (R11). -/
def Ev.takeSlew (e : Ev) (m : SlewIn) : Ev :=
  let before := e.st.meas.slew
  let r := before.sample m e.st.inForce.limits.nominalNrev (sectorNear e.st.env.slots)
  let reversal := m.status == .ok && isReversal before.lastMoving r.1.dir
  let e := (e.setSlew r.1).hand .measurement
    (encoderOps before m.status ++ if r.2 then [raiseOp .slewCalFailed .none] else [])
  (e.upd fun s => { s with svc := if reversal then s.svc.addReversal else s.svc }).handOn

/-- A PRESSURE_SAMPLE taken (R8): the rest time returns to 0 under a set implement pilot flag (R34), and
setting the travel pilot flag is a travel-start event (R9). -/
def Ev.takePressure (e : Ev) (pump travel implement : Nat) : Ev :=
  let r := pressureSample pump travel implement e.st.inForce.limits.highPressure
  let started := !e.st.meas.press.travelFlag && r.travelFlag
  let e := e.upd fun s =>
    { s with
      meas := { s.meas with press := r }
      cycle := if r.implementFlag then { s.cycle with rest := 0 } else s.cycle }
  let e := if started then e.travelStart else e
  e.handOn

/-- JOINT_SAMPLE (R1, R2, R162). -/
def execJointSample (f : Frame) (s : State) : Answer :=
  .next (receiveSample .jointSample f s fun e =>
    if e.st.power = .run then e.takeJoint (readJoint f.data) else e)

/-- FRAME_SAMPLE (R1, R7, R162). -/
def execFrameSample (f : Frame) (s : State) : Answer :=
  .next (receiveSample .frameSample f s fun e =>
    if e.st.power = .run then e.takeFrame (s16 f.data 0) (s16 f.data 2) else e)

/-- SLEW_SAMPLE (R1, R10, R162). -/
def execSlewSample (f : Frame) (s : State) : Answer :=
  .next (receiveSample .slewSample f s fun e =>
    if e.st.power = .run then e.takeSlew (readSlew f.data) else e)

/-- PRESSURE_SAMPLE (R1, R8, R162). -/
def execPressureSample (f : Frame) (s : State) : Answer :=
  .next (receiveSample .pressureSample f s fun e =>
    if e.st.power = .run then e.takePressure (u16 f.data 0) (u16 f.data 2) (u16 f.data 4) else e)

/-! ### Reports -/

/-- An ENGINE_STATUS taken (R96): the fuel increment from the record before it (R112, R119), then the record
and the window. -/
def Ev.takeEngine (e : Ev) (m : EngineIn) : Ev :=
  (e.upd fun s =>
    { s with
      svc := s.svc.addFuel (fuelIncrement s.econ.engine m)
      econ := s.econ.takeEngine m s.inForce.econ }).settleService

/-- ENGINE_STATUS (R96, R162). -/
def execEngineStatus (f : Frame) (s : State) : Answer :=
  .next (receiveSample .engineStatus f s fun e =>
    if e.st.power = .run then e.takeEngine (readEngine f.data) else e)

/-- An echo compared (R93), with its alert (R94). -/
def Ev.takeEcho (e : Ev) (echo : Eight Nat) : Ev :=
  let m := e.st.caps.compareEcho echo
  (e.hand .caps (echoOps e.st.caps.check m.check)).upd fun s => { s with caps := m }

/-- VALVE_STATUS (R93, R162). -/
def execValveStatus (f : Frame) (s : State) : Answer :=
  .next (receiveSample .valveStatus f s fun e =>
    if e.st.power = .run then e.takeEcho (readEcho f.data) else e)

/-- FRAME_NOT_FOR_PART (R162): the sender is heard and the frame discarded. A frame that would reach an owner
or its judgement is none of these, and nothing happens (DEDUCED, log 13). -/
def execFrameNotForPart (kind : BitVec 10) (f : Frame) (s : State) : Answer :=
  .next (if notForPart kind f then
      match s.hears f with
      | none => s
      | some p => ((Ev.start s).hear p).finish
    else s)

end Sys2Proof.Machine
end

