-- ==== Sys2Proof/Machine/MeasureExpiries.lean ====
section
/-! DEFINITION. The expiries of the Measurement Unit and the Cycle Monitor: JOINT_HELD_EXPIRY,
JOINT_INVALID_EXPIRY, FRAME_HELD_EXPIRY, FRAME_INVALID_EXPIRY, SLEW_EXPIRY and ABANDON_TIME_EXPIRY. An expiry
whose time has not come changes nothing (DEDUCED, log 13). -/

namespace Sys2Proof.Machine

/-- An event that takes place in RUN when its condition holds. -/
def runEvent (s : State) (due : Bool) (body : Ev → Ev) : Answer :=
  .next (if s.power == .run && due then (body (Ev.start s)).finish else s)

/-- JOINT_HELD_EXPIRY (R5). -/
def execJointHeldExpiry (j : Joint) (s : State) : Answer :=
  runEvent s (decide (heldAge ≤ (s.meas.joint j).age)) fun e =>
    (e.setJoint j (e.st.meas.joint j).heldExpiry).handOn

/-- JOINT_INVALID_EXPIRY (R5, R6). -/
def execJointInvalidExpiry (j : Joint) (s : State) : Answer :=
  runEvent s (decide (lostAge ≤ (s.meas.joint j).age)) fun e =>
    (e.setJoint j (e.st.meas.joint j).invalidExpiry).handOn

/-- FRAME_HELD_EXPIRY (R7). -/
def execFrameHeldExpiry (s : State) : Answer :=
  runEvent s (decide (heldAge ≤ s.meas.frame.age)) fun e => (e.setFrame e.st.meas.frame.heldExpiry).handOn

/-- FRAME_INVALID_EXPIRY (R7). -/
def execFrameInvalidExpiry (s : State) : Answer :=
  runEvent s (decide (lostAge ≤ s.meas.frame.age)) fun e => (e.setFrame e.st.meas.frame.invalidExpiry).handOn

/-- SLEW_EXPIRY (R13). -/
def execSlewExpiry (s : State) : Answer :=
  runEvent s (decide (lostAge ≤ s.meas.slew.age)) fun e => (e.setSlew e.st.meas.slew.expiry).handOn

/-- ABANDON_TIME_EXPIRY (R35, R36). -/
def execAbandonTimeExpiry (s : State) : Answer :=
  runEvent s (decide (s.inForce.limits.abandonTime * 1000 ≤ s.cycle.rest)) fun e => e.evalCycle.settleService

end Sys2Proof.Machine
end

