-- ==== Sys2Proof/Machine/AccountEvents.lean ====
section
/-! DEFINITION. The times of the Economy Unit, the Service Account Unit and the Cap Merger:
IDLE_DELAY_EXPIRY, HUNDREDTH_HOUR_COMPLETION, HIGH_PRESSURE_MINUTE and ECHO_TIMER_EXPIRY. -/

namespace Sys2Proof.Machine

/-- The idle timer has reached the idle delay in ACTIVE (R108). -/
def State.idleDue (s : State) : Bool :=
  s.econ.idle == .active && !s.meas.press.anyPilot && decide (s.inForce.econ.idleDelay * 1000 ≤ s.econ.idleTimer)

/-- IDLE_DELAY_EXPIRY (R108). -/
def execIdleDelayExpiry (s : State) : Answer :=
  runEvent s s.idleDue fun e => e.upd fun s => { s with econ := s.econ.goIdle }

/-- A hundredth-hour completed at a step (R117, R118): the meters and items gain, the item alerts are settled,
and a checkpoint is asked for at a multiple of 10. -/
def Ev.completeHour (e : Ev) (step : Nat) : Ev :=
  let e := (e.upd fun s =>
    { s with svc := s.svc.completeHour step (stepRow s.inForce.econ step).weight }).settleService
  e.upd fun s => if s.svc.meters.hour % 10 = 0 then s.requestCheckpoint else s

/-- HUNDREDTH_HOUR_COMPLETION (R117): of the accumulator of a step, whichever step is charged when it is
taken. -/
def execHundredthHourCompletion (step : Nat) (s : State) : Answer :=
  .next (if 1 ≤ step ∧ hundredthHour ≤ (atStep s.svc.meters.acc step { whole := 0, rem := 0 }).rem then
      ((Ev.start s).completeHour step).finish
    else s)

/-- HIGH_PRESSURE_MINUTE (R120). -/
def execHighPressureMinute (s : State) : Answer :=
  .next (if highMinute ≤ s.svc.meters.highRem then
      ((Ev.start s).upd fun s => { s with svc := s.svc.addHighMinute }).settleService.finish
    else s)

/-- ECHO_TIMER_EXPIRY (R94). -/
def execEchoTimerExpiry (s : State) : Answer :=
  runEvent s (s.caps.check == .disagreeing && s.caps.echoTimer == 0) fun e =>
    (e.hand .caps (echoOps .disagreeing .mismatched)).upd fun s =>
      { s with caps := { s.caps with check := .mismatched } }

end Sys2Proof.Machine
end

