-- ==== Sys2Proof/Machine/AlertRequests.lean ====
section
/-! DEFINITION. The requests of the Alert List: ALERT_TAKE, ALERT_RELEASE and ALERT_MASK. -/

namespace Sys2Proof.Machine

/-- An entry put into service (R141). -/
def Alerts.putInService (a : Alerts) (c : AlertCode) (subj : Subject) : Alerts :=
  { a with entries := a.entries.map fun o => if o.is c subj then { o with inService := true } else o }

/-- The offered entry that a take is judged by: the one judged at the end of the event before (R138, R140). It
is none when the hearing of the cab in this event has removed that entry from the list, which R141 leaves open
(DESIGN CHOICE, log 28). -/
def Ev.standingOffer (e : Ev) : Option AlertEntry :=
  e.old.alerts.offered.filter fun o => (e.st.alerts.find o.code o.subject).isSome

/-- An ALERT_TAKE taken or refused (R141): it carries the code and subject offered, as R169 codes them. -/
def takeAlertTake (code subject : Nat) (p : Party) (e : Ev) : Ev :=
  e.inRun p .alertTake fun e =>
    match e.standingOffer with
    | some o =>
      if o.code.code = code ∧ o.subject.byte = subject then
        (e.upd fun s => { s with alerts := s.alerts.putInService o.code o.subject }).answer p .alertTake .done 0
      else e.answer p .alertTake .refusedState 0
    | none => e.answer p .alertTake .refusedState 0

/-- ALERT_TAKE (R141). -/
def execAlertTake (f : Frame) (s : State) : Answer :=
  .next (receiveRequest .alertTake f s (takeAlertTake (u8 f.data 0) (u8 f.data 1)))

/-- The highest entry in service released (R143). -/
def Alerts.release (a : Alerts) (t : AlertEntry) : Alerts :=
  { a with
    notListed := false
    entries :=
      if t.code.cls = .event ∨ t.resolved = true then dropEntry a.entries t.code t.subject
      else a.entries.map fun o =>
        if o.is t.code t.subject then { o with inService := false, acked := true } else o }

/-- An ALERT_RELEASE taken or refused (R143). -/
def takeRelease (p : Party) (e : Ev) : Ev :=
  e.inRun p .alertRelease fun e =>
    match e.st.alerts.top with
    | some t => (e.upd fun s => { s with alerts := s.alerts.release t }).answer p .alertRelease .done 0
    | none => e.answer p .alertRelease .refusedState 0

/-- ALERT_RELEASE (R143). -/
def execAlertRelease (f : Frame) (s : State) : Answer :=
  .next (receiveRequest .alertRelease f s takeRelease)

/-- An ALERT_MASK taken or refused (R144). -/
def takeMask (level : Nat) (p : Party) (e : Ev) : Ev :=
  e.inRun p .alertMask fun e =>
    let e := e.upd fun s => { s with alerts := { s.alerts with mask := min 6 level } }
    if 6 < level then e.answer p .alertMask .clamped 6 else e.answer p .alertMask .done 0

/-- ALERT_MASK (R144). -/
def execAlertMask (f : Frame) (s : State) : Answer :=
  .next (receiveRequest .alertMask f s (takeMask (u8 f.data 0)))

end Sys2Proof.Machine
end

