-- ==== Sys2Proof/Machine/LinkRequests.lean ====
section
/-! DEFINITION. READ and FAULT_CLEAR, which the Link Unit takes, READ_NEXT_PAGE, and WAKE and SLEEP, which
the Retained Store controller takes. -/

namespace Sys2Proof.Machine

/-! ### READ (R168) -/

/-- A page of a read placed for its reader, which becomes the reader's read in progress. -/
def State.placePage (s : State) (q : Reader) (r : ReadProg) : State :=
  { s.place .readData (Reader.party q) (readDataPage r) with reads := s.reads.set q (some r) }

/-- A READ taken or refused. Its sender is the cab or the gateway, by permission. R168 takes the record as it
stands in the event of the READ, R134 the Alert List as the last event left it: the snapshot is taken after the
hearing of the reader, so it shows what that changed (DESIGN CHOICE, log 31). -/
def takeRead (selector index : Byte) (p : Party) (e : Ev) : Ev :=
  match Reader.ofNode p.node with
  | none => e
  | some q =>
    match snapshot e.st selector.toNat index.toNat with
    | .unknown => e.answer p .read .refusedRange 0
    | .noItem => e.answer p .read .noSuchItem 0
    | .record bytes =>
      e.upd fun s => s.placePage q { selector := selector, index := index, bytes := bytes, page := 0 }

/-- READ (R168). It reaches its judgement in RUN, PARKING and SERVICE_AWAKE alone, where it is taken. -/
def execRead (f : Frame) (s : State) : Answer :=
  .next (receiveRequest .read f s (takeRead (f.data.getD 0 0) (f.data.getD 1 0)))

/-- A READ_DATA waits for a reader. -/
def State.pageWaits (s : State) (q : Reader) : Bool :=
  (s.ports.get (Reader.party q).port).list.any fun o => o.is .readData (Reader.party q).node

/-- The next page of a read placed, or the read ended after its last page, at a report that a READ_DATA has
left for the reader (R168). -/
def State.nextPage (s : State) (q : Reader) : State :=
  match s.reads.get q with
  | none => s
  | some r =>
    if r.page + 1 < pageCount r.bytes.length then s.placePage q { r with page := r.page + 1 }
    else { s with reads := s.reads.set q none }

/-- READ_NEXT_PAGE (R168): the step that TX_SUCCESS takes at the report of a page, where it is still due: no
page of the reader waits (DEDUCED, log 17). -/
def execReadNextPage (q : Reader) (s : State) : Answer :=
  .next (if s.pageWaits q then s else ((Ev.start s).upd fun s => s.nextPage q).finish)

/-! ### FAULT_CLEAR (R164) -/

/-- A FAULT_CLEAR taken or refused. -/
def takeFaultClear (p : Party) (e : Ev) : Ev :=
  e.whileAwake p .faultClear fun e => (e.upd fun s => { s with fault := none }).answer p .faultClear .done 0

/-- FAULT_CLEAR (R164). -/
def execFaultClear (f : Frame) (s : State) : Answer := .next (receiveRequest .faultClear f s takeFaultClear)

/-! ### WAKE and SLEEP (R176, R177) -/

/-- A WAKE that passes in PARKED (R162): from the gateway, on its port, addressed to the part, empty. -/
def passesParked (f : Frame) (s : State) : Bool :=
  s.power == .parked && (s.ports.get .powertrain).bus == .onBus && f.port == .powertrain &&
    f.src == Party.node .gateway && f.dest == partNode && f.data.isEmpty

/-- The wake to SERVICE_AWAKE (R176). -/
def Ev.wakeToService (e : Ev) : Ev :=
  (e.wake.upd fun s =>
    { s with power := .serviceAwake, ctrl := { s.ctrl with awakeTimer := awakeTime } }.startRequest).answer
    .gateway .wake .done 0

/-- A WAKE judged outside PARKED (R176): its arrival has restarted the timer in SERVICE_AWAKE. -/
def takeWake (p : Party) (e : Ev) : Ev :=
  if e.st.power = .serviceAwake then e.answer p .wake .done 0 else e.answer p .wake .refusedState 0

/-- WAKE (R162, R176). -/
def execWake (f : Frame) (s : State) : Answer :=
  .next (if passesParked f s then (Ev.start s).wakeToService.finish else receiveRequest .wake f s takeWake)

/-- A SLEEP taken or refused (R177): one that is taken is not answered. -/
def takeSleep (p : Party) (e : Ev) : Ev :=
  if e.st.power = .serviceAwake then e.upd State.enterParked else e.answer p .sleep .refusedState 0

/-- SLEEP (R177). -/
def execSleep (f : Frame) (s : State) : Answer := .next (receiveRequest .sleep f s takeSleep)

end Sys2Proof.Machine
end

