-- ==== Sys2Proof/Machine/BusEvents.lean ====
section
/-! DEFINITION. What the two buses do: TX_SUCCESS, TX_ERROR, RECESSIVE_RUN_OBSERVED and PORT_REJOIN. -/

namespace Sys2Proof.Machine

/-- The port record changed. -/
def State.updPort (s : State) (p : Port) (f : PortRec → PortRec) : State :=
  { s with ports := s.ports.set p (f (s.ports.get p)) }

/-- A port that can send: joined to its bus and ON_BUS (R165, R166, R172); in PARKED, where the lists are
empty, a frame that was being sent (DESIGN CHOICE, log 35). -/
def State.canSend (s : State) (p : Port) : Bool := s.power.joined && (s.ports.get p).bus == .onBus

/-! ### TX_SUCCESS (R165) -/

/-- The frame that was sent: the one named, which began earlier, or the head of the list with its current
content (DESIGN CHOICE, log 9). -/
def State.frameSent (s : State) (p : Port) (earlier : Option SentFrame) : Option SentFrame :=
  match earlier with
  | some m => some m
  | none =>
    (s.ports.get p).list.head?.map fun o => { kind := o.kind, dest := o.dest, data := o.data, replaced := false }

/-- The port after a sending: the error count loses 1 (R166), and the entry goes unless its content was
replaced meanwhile (R165). -/
def PortRec.sent (r : PortRec) (m : SentFrame) : PortRec :=
  { r with errors := r.errors - 1, list := if m.replaced then r.list else removeEntry r.list m.kind m.dest }

/-- The sending reported to the block that placed the message: the Cap Merger records a CAP_SET (R92), the
Link Unit places the next page of a read (R168). -/
def State.reportSent (s : State) (m : SentFrame) : State :=
  match m.kind with
  | .capSet => { s with caps := s.caps.recordSent m.data }
  | .readData =>
    match Reader.ofNode m.dest with
    | some q => s.nextPage q
    | none => s
  | _ => s

/-- TX_SUCCESS (R165). -/
def execTxSuccess (p : Port) (earlier : Option SentFrame) (s : State) : Answer :=
  .next (match s.canSend p, s.frameSent p earlier with
    | true, some m => ((Ev.start s).upd fun s => (s.updPort p fun r => r.sent m).reportSent m).finish
    | _, _ => s)

/-! ### TX_ERROR (R166) -/

/-- The ONLINE links of a port made SILENT (R166, R167), their alerts handed in the order of the table of
parties, which no rule gives (DESIGN CHOICE, log 11). -/
def Ev.silencePort (e : Ev) (p : Port) : Ev :=
  Party.all.foldl
    (fun e q => if q.port = p ∧ (e.st.links.get q).state = .online then e.linkSilent q else e) e

/-- A port going BUS_OFF (R166). The error count, which the gain would carry above its bound, stands. -/
def Ev.busOff (e : Ev) (p : Port) : Ev :=
  ((e.upd fun s => s.updPort p fun r =>
      { r with bus := .busOff, recovery := 0, busOffs := addSat 255 r.busOffs 1 }).silencePort p).hand .link
    [raiseOp .portBusOff (.port p)]

/-- TX_ERROR (R166). -/
def execTxError (p : Port) (s : State) : Answer :=
  .next (if s.canSend p then
      (if 255 < (s.ports.get p).errors + 8 then (Ev.start s).busOff p
       else (Ev.start s).upd fun s => s.updPort p fun r => { r with errors := r.errors + 8 }).finish
    else s)

/-! ### Recovery (R166) -/

/-- A port rejoining its bus: both counts return to 0 and PORT_BUS_OFF is withdrawn. -/
def Ev.rejoin (e : Ev) (p : Port) : Ev :=
  (e.upd fun s => s.updPort p fun r => { r with bus := .onBus, errors := 0, recovery := 0 }).hand .link
    [.withdraw .portBusOff (.port p)]

/-- A BUS_OFF port of a part that is joined to its buses. That it counts recessive runs and rejoins in
PARKED too, where R176 has the blocks hold their state, is a DESIGN CHOICE (log 35). -/
def State.isBusOff (s : State) (p : Port) : Bool := s.power.joined && (s.ports.get p).bus == .busOff

/-- RECESSIVE_RUN_OBSERVED (R166): at 128 the port rejoins in this event. -/
def execRecessiveRunObserved (p : Port) (s : State) : Answer :=
  .next (if s.isBusOff p then
      let e := (Ev.start s).upd fun s => s.updPort p fun r => { r with recovery := addSat rejoinRuns r.recovery 1 }
      (if rejoinRuns ≤ (e.st.ports.get p).recovery then e.rejoin p else e).finish
    else s)

/-- PORT_REJOIN (R166). -/
def execPortRejoin (p : Port) (s : State) : Answer :=
  .next (if s.isBusOff p && decide (rejoinRuns ≤ (s.ports.get p).recovery) then
      ((Ev.start s).rejoin p).finish
    else s)

end Sys2Proof.Machine
end

