-- ==== Sys2Proof/Machine/EconomyRequests.lean ====
section
/-! DEFINITION. The requests of the Economy Unit: ECON_MODE, ECON_CAP and SITE_STEP_CAP. The end of the event
judges the step (R106). -/

namespace Sys2Proof.Machine

/-- The answer to a step carried: DONE, or CLAMPED with the step taken (R102 to R104, R163). -/
def Ev.answerStep (e : Ev) (p : Party) (k : RxKind) (step : Nat) : Ev :=
  if clampStep step = step then e.answer p k .done 0 else e.answer p k .clamped (clampStep step)

/-- An ECON_MODE taken or refused (R102). The mode is coded AUTO 0, MANUAL 1 (R169). -/
def takeMode (mode step : Nat) (p : Party) (e : Ev) : Ev :=
  e.inRun p .econMode fun e =>
    match mode with
    | 0 => (e.upd fun s => { s with econ := s.econ.auto }).answer p .econMode .done 0
    | 1 => (e.upd fun s => { s with econ := s.econ.manual step }).answerStep p .econMode step
    | _ => e.answer p .econMode .refusedRange 0

/-- ECON_MODE (R102). -/
def execEconMode (f : Frame) (s : State) : Answer :=
  .next (receiveRequest .econMode f s (takeMode (u8 f.data 0) (u8 f.data 1)))

/-- An ECON_CAP taken or refused (R103). -/
def takeOperatorCap (step : Nat) (p : Party) (e : Ev) : Ev :=
  e.inRun p .econCap fun e =>
    (e.upd fun s => { s with econ := { s.econ with operatorCap := clampStep step } }).answerStep p .econCap step

/-- ECON_CAP (R103). -/
def execEconCap (f : Frame) (s : State) : Answer :=
  .next (receiveRequest .econCap f s (takeOperatorCap (u8 f.data 0)))

/-- A SITE_STEP_CAP taken or refused (R104). -/
def takeSiteCap (step : Nat) (p : Party) (e : Ev) : Ev :=
  e.inRun p .siteStepCap fun e =>
    (e.upd fun s => { s with econ := { s.econ with siteCap := clampStep step } }).answerStep p .siteStepCap step

/-- SITE_STEP_CAP (R104). -/
def execSiteStepCap (f : Frame) (s : State) : Answer :=
  .next (receiveRequest .siteStepCap f s (takeSiteCap (u8 f.data 0)))

end Sys2Proof.Machine
end

