-- ==== Sys2Proof/Machine/FenceRequests.lean ====
section
/-! DEFINITION. The requests of the Envelope Unit: FENCE_SET, FENCE_CLEAR and FENCES_CONFIRM. -/

namespace Sys2Proof.Machine

/-- The contents of a slot replaced, and then the table evaluated (R73, R76). -/
def Ev.editSlot (e : Ev) (n : Nat) (f : Option Fence) : Ev :=
  (e.setSlots (setSlotFence e.st.env.slots n f)).evalEnv

/-- The tests of the slot that FENCE_SET and FENCE_CLEAR share (R73, R76): the slot exists, and from the
gateway it is a SITE slot. -/
def slotRefusal (n : Nat) (p : Party) : Option Result :=
  if slotExists n = false then some .noSuchItem
  else if p = .gateway ∧ isSite n = false then some .refusedPermission
  else none

/-- What a FENCE_SET that passed its tests makes of its slot: the new contents, or the refusal (R74, R75,
R77). -/
def settledFence (n : Nat) (p : Party) (slot : FenceSlot) (g : FenceGeom) : Except Result Fence :=
  if p = .gateway then .ok (siteFence g)
  else if isSite n = false then .ok (cabFence g)
  else match slot.fence.bind fun f => f.site with
    | none => .error .refusedState
    | some site => if atLeastAsTight g site then .ok (tightenedFence g site) else .error .refusedLoosen

/-- A FENCE_SET taken or refused (R73 to R75, R77). -/
def takeFenceSet (m : FenceIn) (p : Party) (e : Ev) : Ev :=
  e.inRun p .fenceSet fun e =>
    match slotRefusal m.slot p with
    | some r => e.answer p .fenceSet r 0
    | none =>
      match fenceTests m with
      | none => e.answer p .fenceSet .refusedRange 0
      | some k =>
        let g := proposedFence k m e.st.inForce.limits
        match settledFence m.slot p (slotAt e.st.env.slots m.slot) g with
        | .error r => e.answer p .fenceSet r 0
        | .ok f =>
          let e := e.editSlot m.slot (some f)
          if bandClamped k m then e.answer p .fenceSet .clamped g.band else e.answer p .fenceSet .done 0

/-- FENCE_SET (R73). -/
def execFenceSet (f : Frame) (s : State) : Answer :=
  .next (receiveRequest .fenceSet f s (takeFenceSet (readFence f.data)))

/-- What a FENCE_CLEAR leaves in its slot (R76, R77). -/
def clearedFence (n : Nat) (p : Party) (slot : FenceSlot) : Option Fence :=
  if p = .gateway ∨ isSite n = false then none else slot.fence.map Fence.untightened

/-- A FENCE_CLEAR taken or refused (R76, R77); one that changes the slot evaluates the table (R73). -/
def takeFenceClear (n : Nat) (p : Party) (e : Ev) : Ev :=
  e.inRun p .fenceClear fun e =>
    match slotRefusal n p with
    | some r => e.answer p .fenceClear r 0
    | none =>
      let slot := slotAt e.st.env.slots n
      let f := clearedFence n p slot
      (if f = slot.fence then e else e.editSlot n f).answer p .fenceClear .done 0

/-- FENCE_CLEAR (R76). -/
def execFenceClear (f : Frame) (s : State) : Answer :=
  .next (receiveRequest .fenceClear f s (takeFenceClear (u8 f.data 0)))

/-- A FENCES_CONFIRM taken or refused (R79). -/
def takeConfirm (p : Party) (e : Ev) : Ev :=
  e.inRun p .fencesConfirm fun e =>
    (e.setSlots (setVerified e.st.env.slots true)).answer p .fencesConfirm .done 0

/-- FENCES_CONFIRM (R79). -/
def execFencesConfirm (f : Frame) (s : State) : Answer :=
  .next (receiveRequest .fencesConfirm f s takeConfirm)

end Sys2Proof.Machine
end

