-- ==== Sys2Proof/Machine/GradeRequests.lean ====
section
/-! DEFINITION. The requests of the Grade Guide: BENCHMARK_CAPTURE and GUARD_SET. -/

namespace Sys2Proof.Machine

/-- A capture taken or refused (R43). A GOOD pose with a valid slew copy carries plan coordinates (R28). -/
def takeCapture (elevation : Int) (p : Party) (e : Ev) : Ev :=
  e.inRun p .benchmarkCapture fun e =>
    let r := e.st.pose.record
    match r.slew, r.plan with
    | some _, some (x, y) =>
      if r.quality = .good then
        ((e.upd fun s => { s with grade := { s.grade with bench := captured r x y elevation } }).evalGrade).answer
          p .benchmarkCapture .done 0
      else e.answer p .benchmarkCapture .refusedState 0
    | _, _ => e.answer p .benchmarkCapture .refusedState 0

/-- BENCHMARK_CAPTURE (R43). -/
def execBenchmarkCapture (f : Frame) (s : State) : Answer :=
  .next (receiveRequest .benchmarkCapture f s (takeCapture (s16 f.data 0)))

/-- The guard switch set (R51): a change evaluates the guidance. -/
def takeGuard (value : Nat) (p : Party) (e : Ev) : Ev :=
  e.inRun p .guardSet fun e =>
    if 1 < value then e.answer p .guardSet .refusedRange 0
    else
      let on := value == 1
      let e := if on = e.st.grade.guardOn then e
        else (e.upd fun s => { s with grade := { s.grade with guardOn := on } }).evalGrade
      e.answer p .guardSet .done 0

/-- GUARD_SET (R51). -/
def execGuardSet (f : Frame) (s : State) : Answer :=
  .next (receiveRequest .guardSet f s (takeGuard (u8 f.data 0)))

end Sys2Proof.Machine
end

