-- ==== Sys2Proof/Machine/LinkEvents.lean ====
section
/-! DEFINITION. The times of the links, the transfer and SERVICE_AWAKE: LINK_SILENT_EXPIRY,
LINK_OFFLINE_EXPIRY, REQUEST_TIMER_EXPIRY, INACTIVITY_TIMER_EXPIRY and SERVICE_AWAKE_TIMER_EXPIRY. -/

namespace Sys2Proof.Machine

/-- The silence time of a link runs (R167). -/
def silenceRuns (w : Power) (p : Party) : Bool :=
  match w with
  | .run | .parking => true
  | .serviceAwake => p == .gateway
  | .off | .starting | .parked => false

/-- LINK_SILENT_EXPIRY (R167). -/
def execLinkSilentExpiry (p : Party) (s : State) : Answer :=
  .next (if silenceRuns s.power p && (s.links.get p).state == .online &&
        decide (p.silentTime ≤ (s.links.get p).silence) then
      ((Ev.start s).linkSilent p).finish
    else s)

/-- A link that has been silent for its offline time (R167): a SILENT link becomes OFFLINE, its LINK_SILENT
withdrawn and LINK_OFFLINE raised; an OFFLINE link on which LINK_OFFLINE does not stand raises it. -/
def Ev.linkOffline (e : Ev) (p : Party) : Ev :=
  let l := e.st.links.get p
  (e.hand .link
      ((if l.state = .silent then [.withdraw .linkSilent (.party p)] else []) ++
        (if l.offlineStands then [] else [raiseOp .linkOffline (.party p)]))).upd fun s =>
    { s with links := s.links.set p { l with state := .offline, offlineStands := true } }

/-- LINK_OFFLINE_EXPIRY (R167). -/
def execLinkOfflineExpiry (p : Party) (s : State) : Answer :=
  .next (if silenceRuns s.power p && (s.links.get p).state != .online &&
        decide (p.offlineTime ≤ (s.links.get p).silence) then
      ((Ev.start s).linkOffline p).finish
    else s)

/-- REQUEST_TIMER_EXPIRY (R151). -/
def execRequestTimerExpiry (s : State) : Answer :=
  .next (if s.power.awake && s.plan.xfer == .requested && s.plan.requestTimer == 0 then
      (((Ev.start s).hand .plan [.raise .planTransferFailed .none 3]).upd fun s =>
        { s with plan := { s.plan with xfer := .idle } }).finish
    else s)

/-- INACTIVITY_TIMER_EXPIRY (R155). -/
def execInactivityTimerExpiry (s : State) : Answer :=
  .next (if s.power.awake && (s.plan.xfer == .opened || s.plan.xfer == .receiving) &&
        s.plan.inactTimer == 0 then
      (((Ev.start s).hand .plan [.raise .planTransferFailed .none 4]).upd fun s =>
        { s with plan := s.plan.abandon }).finish
    else s)

/-- SERVICE_AWAKE_TIMER_EXPIRY (R177). -/
def execServiceAwakeTimerExpiry (s : State) : Answer :=
  .next (if s.power == .serviceAwake && s.ctrl.awakeTimer == 0 then
      ((Ev.start s).upd State.enterParked).finish
    else s)

end Sys2Proof.Machine
end

