-- ==== Sys2Proof/Machine/PeriodEvents.lean ====
section
/-! DEFINITION. The periods of the messages the part sends: GRADE_STATUS_PERIOD, ENVELOPE_STATUS_PERIOD,
CAP_SET_PERIOD, STEP_DEMAND_PERIOD and ECON_STATUS_PERIOD. A period that has not run changes nothing
(DEDUCED, log 13). -/

namespace Sys2Proof.Machine

/-- GRADE_STATUS_PERIOD (R50). -/
def execGradeStatusPeriod (s : State) : Answer :=
  runEvent s (decide (gradePeriod ≤ s.periods.grade)) fun e => e.upd State.placeGrade

/-- ENVELOPE_STATUS_PERIOD (R80). -/
def execEnvelopeStatusPeriod (s : State) : Answer :=
  runEvent s (decide (envelopePeriod ≤ s.periods.envelope)) fun e => e.upd State.placeEnvelope

/-- CAP_SET_PERIOD (R88). -/
def execCapSetPeriod (s : State) : Answer :=
  runEvent s (s.caps.sending && decide (capSetPeriodMs ≤ s.periods.capSet)) fun e => e.upd State.placeCapSet

/-- STEP_DEMAND_PERIOD (R110). -/
def execStepDemandPeriod (s : State) : Answer :=
  runEvent s (decide (stepDemandPeriodMs ≤ s.periods.step)) fun e => e.upd State.placeStep

/-- ECON_STATUS_PERIOD (R111). -/
def execEconStatusPeriod (s : State) : Answer :=
  runEvent s (decide (econStatusPeriodMs ≤ s.periods.econ)) fun e => e.upd State.placeEcon

end Sys2Proof.Machine
end

