-- ==== Sys2Proof/Machine/PowerEvents.lean ====
section
/-! DEFINITION. The key, the power and the store chip: KEY_ON, KEY_OFF, POWER_LOSS, COLD_START,
STARTING_READ_COMPLETE, the reports of the store port, the starts of its writes, ENTER_PARKED and
START_PLAN_WANTED. -/

namespace Sys2Proof.Machine

/-! ### The key line (R171) -/

/-- The key line at a level. -/
def State.withKey (s : State) (on : Bool) : State := { s with pins := { s.pins with keyOn := on } }

/-- KEY_ON (R171, R175, R176): RUN from PARKING and SERVICE_AWAKE, and from PARKED as a wake. -/
def execKeyOn (s : State) : Answer :=
  let s := s.withKey true
  .next (match s.power with
    | .parking | .serviceAwake => (Ev.start s).enterRun.finish
    | .parked => (Ev.start s).wake.enterRun.finish
    | .off | .starting | .run => s)

/-- KEY_OFF (R171, R175). -/
def execKeyOff (s : State) : Answer :=
  let s := s.withKey false
  .next (match s.power with
    | .run => (Ev.start s).enterParking.finish
    | .off | .starting | .parking | .parked | .serviceAwake => s)

/-! ### Power (R171, R172, R178) -/

/-- The lines after a power loss. -/
def Pins.after (p : Pins) : PowerCause → Pins
  | .supplyRemoved => { p with supply := false }
  | .resetAsserted => { p with resetReleased := false }

/-- What the chip holds after a power loss (R178): a plan image is lost while it is STORING (R159), and the
slot being written was marked invalid when its write began (R173). -/
def State.chipAfterLoss (s : State) : Chip :=
  if s.plan.image = .storing then { s.chip with image := none } else s.chip

/-- POWER_LOSS (R178): OFF, with nothing held but what the chip holds (R171). -/
def execPowerLoss (cause : PowerCause) (s : State) : Answer :=
  .next (State.offWith s.chipAfterLoss (s.pins.after cause) s.orders s.pending)

/-- COLD_START (R171): in OFF, with supply present and the reset line released, the part enters STARTING. -/
def execColdStart (s : State) : Answer :=
  .next (if s.power = .off then
      { s with power := .starting, pins := { s.pins with supply := true, resetReleased := true } }
    else s)

/-- STARTING_READ_COMPLETE (R172): the cold start event, and RUN or PARKED by the key line. -/
def execStartingReadComplete (s : State) : Answer :=
  .next (if s.power = .starting then
      let e := (Ev.start s).coldStart
      (if s.pins.keyOn then e.enterRun else e.upd fun s => { s with power := .parked }).finish
    else s)

/-! ### The store port (R159, R173, R174, R175) -/

/-- A checkpoint's outcome written to its slot and the controller (R173); the parking checkpoint ends
(R175). -/
def State.endCheckpoint (s : State) (w : Writing) (completed : Bool) : State :=
  { s with
    chip := if completed then s.chip.setSlot w.slot (writtenSlot w.seq w.image) else s.chip
    ctrl := { s.ctrl with
      writing := none
      current := if completed then w.seq else s.ctrl.current
      accountsLost := s.ctrl.accountsLost && !completed
      parkingCkpt := s.ctrl.parkingCkpt && !w.parking } }

/-- CHECKPOINT_REPORT (R173, R175): a waiting write starts, and PARKING may end, in the same event. -/
def execCheckpointReport (completed : Bool) (s : State) : Answer :=
  .next (match s.ctrl.writing with
    | some w =>
      (((Ev.start s).hand .store
        (if completed && s.ctrl.accountsLost then [.withdraw .storeAccountsLost .none] else [])).upd fun s =>
          (s.endCheckpoint w completed).portFreed.parkIfDone).finish
    | none => s)

/-- The plan image write's outcome (R159). -/
def State.endImage (s : State) (completed : Bool) : State :=
  { s with
    chip := { s.chip with image := if completed then s.plan.active.map imageOf else none }
    plan := { s.plan with image := if completed then .valid else .absent }
    ctrl := { s.ctrl with imageWrite := .none } }

/-- PLAN_IMAGE_WRITE_REPORT (R159, R174, R175). The report of a write that a newer commit has abandoned is not
taken; the operand says which write the chip reports (DESIGN CHOICE, log 25). -/
def execPlanImageWriteReport (report : ImageReport) (s : State) : Answer :=
  .next (if s.ctrl.imageWrite = .onPort ∧ report ≠ .abandoned then
      ((Ev.start s).upd fun s => (s.endImage (report == .written)).portFreed.parkIfDone).finish
    else s)

/-- PENDING_CHECKPOINT_START (R173). -/
def execPendingCheckpointStart (s : State) : Answer :=
  .next (if s.ctrl.pendingCkpt && s.ctrl.writing.isNone && s.ctrl.imageWrite == .none then
      ((Ev.start s).upd State.startCheckpoint).finish
    else s)

/-- PLAN_IMAGE_WRITE_START (R174). -/
def execPlanImageWriteStart (s : State) : Answer :=
  .next (if s.ctrl.imageWrite == .waiting && s.ctrl.writing.isNone then
      ((Ev.start s).upd State.imageToPort).finish
    else s)

/-- ENTER_PARKED (R175). -/
def execEnterParked (s : State) : Answer := .next ((Ev.start s).upd State.parkIfDone).finish

/-- START_PLAN_WANTED (R151). -/
def execStartPlanWanted (s : State) : Answer :=
  .next (if s.power.awake then ((Ev.start s).upd State.startRequest).finish else s)

end Sys2Proof.Machine
end

