-- ==== Sys2Proof/Machine/ServiceRequests.lean ====
section
/-! DEFINITION. The requests of the Service Account Unit: SERVICE_DEFER and SERVICE_DONE. -/

namespace Sys2Proof.Machine

/-- One item changed, the item alerts settled (R126), SERVICE_STATUS owed (R128), and a checkpoint asked for
(R173). -/
def Ev.changeItem (e : Ev) (n : Nat) (f : Item → Item) : Ev :=
  let e := (e.upd fun s => { s with svc := { s.svc with items := updItem s.svc.items n f } }).settleService
  { e with statusDue := true, st := e.st.requestCheckpoint }

/-- A SERVICE_DEFER taken or refused (R124). -/
def takeDefer (n amount : Nat) (p : Party) (e : Ev) : Ev :=
  e.inRun p .serviceDefer fun e =>
    match findItem e.st.svc.items n with
    | none => e.answer p .serviceDefer .noSuchItem 0
    | some i =>
      let most := i.defn.margin / 2
      if amount = 0 then e.answer p .serviceDefer .refusedRange 0
      else if i.usage.state ≠ .due ∨ i.usage.deferredFlag = true then e.answer p .serviceDefer .refusedState 0
      else if most = 0 then e.answer p .serviceDefer .refusedState 0
      else
        let e := e.changeItem n fun i => i.defer (min amount most)
        if most < amount then e.answer p .serviceDefer .clamped most else e.answer p .serviceDefer .done 0

/-- SERVICE_DEFER (R124). -/
def execServiceDefer (f : Frame) (s : State) : Answer :=
  .next (receiveRequest .serviceDefer f s (takeDefer (u8 f.data 0) (u32 f.data 1)))

/-- A SERVICE_DONE taken or refused (R125). -/
def takeDone (n : Nat) (p : Party) (e : Ev) : Ev :=
  e.whileAwake p .serviceDone fun e =>
    match findItem e.st.svc.items n with
    | none => e.answer p .serviceDone .noSuchItem 0
    | some i =>
      if p = .cab ∧ i.defn.cabSignOff = false then e.answer p .serviceDone .refusedPermission 0
      else
        (e.changeItem n fun i => i.signOff e.st.svc.meters.hour).answer p .serviceDone .done 0

/-- SERVICE_DONE (R125). -/
def execServiceDone (f : Frame) (s : State) : Answer :=
  .next (receiveRequest .serviceDone f s (takeDone (u8 f.data 0)))

end Sys2Proof.Machine
end

