-- ==== Sys2Proof/Machine/TransferRequests.lean ====
section
/-! DEFINITION. The requests of the Plan Store: PLAN_REQUEST, XFER_OPEN, XFER_DATA, XFER_END with the commit,
and XFER_ABORT. -/

namespace Sys2Proof.Machine

/-! ### PLAN_REQUEST (R151) -/

/-- A PLAN_REQUEST taken or refused. -/
def takePlanRequest (p : Party) (e : Ev) : Ev :=
  e.inRun p .planRequest fun e =>
    match e.st.plan.xfer with
    | .idle | .requested => (e.upd fun s => s.wantPlan .operator).answer p .planRequest .done 0
    | .opened | .receiving => e.answer p .planRequest .refusedState 0

/-- PLAN_REQUEST (R151). -/
def execPlanRequest (f : Frame) (s : State) : Answer :=
  .next (receiveRequest .planRequest f s takePlanRequest)

/-! ### XFER_OPEN and XFER_DATA (R152, R153) -/

/-- Region sizes (R148). -/
def regionSize : Section → Nat
  | .geometry => 64 | .panels => 1536 | .fences => 512 | .economy => 192 | .service => 1536
  | .limits => 128 | .index => 128

/-- The transfer with a section opened (R152). The request timer, stopped, stands at 0 (DESIGN CHOICE,
log 32). -/
def PlanStore.openSection (t : PlanStore) (k : Section) (len : Nat) : PlanStore :=
  { t with
    staging := t.staging.set k emptyRegion, xfer := .receiving, receiving := k, declared := len, expected := 0,
    requestTimer := 0, inactTimer := inactivityTime }

/-- An XFER_OPEN taken or refused (R152). -/
def takeOpen (code len : Nat) (p : Party) (e : Ev) : Ev :=
  e.whileAwake p .xferOpen fun e =>
    if e.st.plan.xfer = .receiving then e.answer p .xferOpen .refusedState 0
    else match sectionOf code with
      | none => e.answer p .xferOpen .refusedRange 0
      | some k =>
        if regionSize k < len then e.answer p .xferOpen .refusedRange 0
        else
          (e.upd fun s => { s with plan := s.plan.openSection k len }.place .xferReady .gateway
            (xferReadyData k len)).answer p .xferOpen .done 0

/-- XFER_OPEN (R152). -/
def execXferOpen (f : Frame) (s : State) : Answer :=
  .next (receiveRequest .xferOpen f s (takeOpen (u8 f.data 0) (u16 f.data 1)))

/-- Bytes written to the region being received (R153). -/
def PlanStore.write (t : PlanStore) (bytes : List Byte) : PlanStore :=
  let r := t.staging.get t.receiving
  { t with
    staging := t.staging.set t.receiving { r with bytes := r.bytes ++ bytes },
    expected := t.expected + bytes.length }

/-- The section being received ended (R153, R154): its received flag, length and checksum set, the state
OPEN. The checksum is kept with a section received. -/
def PlanStore.settle (t : PlanStore) (received : Bool) : PlanStore :=
  let r := t.staging.get t.receiving
  { t with
    xfer := .opened
    staging := t.staging.set t.receiving
      { r with received := received, length := t.expected, sum := if received then checksum r.bytes else 0 } }

/-- XFER_SUM placed for the section being received, with an outcome (R153, R154). -/
def State.placeSum (s : State) (o : SumOutcome) : State :=
  s.place .xferSum .gateway
    (xferSumData s.plan.receiving s.plan.expected (checksum (s.plan.staging.get s.plan.receiving).bytes) o)

/-- The section being received ended with an outcome. -/
def State.endSection (s : State) (o : SumOutcome) : State :=
  let s' := s.placeSum o
  { s' with plan := s'.plan.settle (decide (o = .received)) }

/-- An XFER_DATA taken or refused (R153): the power state, the transfer state, the number of bytes, then the
offset and the length. -/
def takeData (offset : Nat) (bytes : List Byte) (p : Party) (e : Ev) : Ev :=
  e.whileAwake p .xferData fun e =>
    let t := e.st.plan
    if t.xfer ≠ .receiving then e.answer p .xferData .refusedState 0
    else if bytes.length = 0 ∨ 6 < bytes.length then e.answer p .xferData .refusedRange 0
    else if offset ≠ t.expected then
      (e.upd fun s => s.endSection .badOffset).answer p .xferData .refusedRange 0
    else if t.declared < offset + bytes.length then
      (e.upd fun s => s.endSection .overrun).answer p .xferData .refusedRange 0
    else (e.upd fun s => { s with plan := s.plan.write bytes }).answer p .xferData .done 0

/-- XFER_DATA (R153). -/
def execXferData (f : Frame) (s : State) : Answer :=
  .next (receiveRequest .xferData f s (takeData (u16 f.data 0) (f.data.drop 2)))

/-! ### The commit (R156 to R158) -/

/-- The Plan Store and the Measurement Unit at a successful commit (R157, R20): the plan is active, staging
discarded, the values in force are the plan's, and the high-pressure flag is judged again and handed on. -/
def State.adopt (s : State) (plan : ActivePlan) (c : PlanContent) : State :=
  let high := decide (c.inForce.limits.highPressure ≤ s.meas.press.pump)
  { s with
    plan := { s.plan.abandon with active := some plan }
    inForce := c.inForce
    meas := { s.meas with press := { s.meas.press with highFlag := high } }
    charge := { s.charge with high := high } }

/-- The Plan Store's alerts at a successful commit (R157). -/
def commitOps (before : Option ActivePlan) : List AlertOp :=
  (if before.isSome then [] else [.withdraw .planNone .none]) ++ [raiseOp .planCommitted .none]

/-- Every block takes its sections (R157): the SITE slots (R81), and the item table with the usage carried
over (R129, R130). The Economy Unit's settings and the other blocks' values are those in force. -/
def State.takeSections (s : State) (c : PlanContent) : State :=
  { s with
    env := { s.env with slots := planSlots s.env.slots c.fences }
    svc := { s.svc with
      items := c.items.map fun d => itemAtCommit d s.svc.items (s.svc.held.getD [])
      held := none } }

/-- The rows held for the SITE slots that a commit defined or emptied, replaced by the owner's (R81): the table
before the commit, the table after it, and the rows held. -/
def siteRows (before after : List FenceSlot) (held : List Row) : List Row :=
  held.zipIdx.map fun r =>
    if isSite (r.2 + 1) && ((slotAt before (r.2 + 1)).fence.isSome || (slotAt after (r.2 + 1)).fence.isSome) then
      (slotAt after (r.2 + 1)).demands
    else r.1

/-- The rows of the SITE slots handed to the Cap Merger at a commit, changed or not, and merged (R81, R85). -/
def State.handSites (s : State) (before : List FenceSlot) : State :=
  { s with caps := s.caps.withRows { s.caps.rows with slots := siteRows before s.env.slots s.caps.rows.slots } }

/-- The Envelope Unit judges at a commit (R81), from the table before it: in RUN it evaluates; in SERVICE_AWAKE
the SITE slots stand unjudged and their rows are handed on. FENCES_UNVERIFIED is then judged again. -/
def Ev.commitEnv (e : Ev) (before : List FenceSlot) : Ev :=
  let e := if e.st.power = .run then e.evalEnv
    else (e.hand .envelope (siteWithdrawals e.st.env.slots)).upd fun s =>
      { s with env := { s.env with slots := unjudgedSites s.env.slots s.inForce.limits } }.handSites before
  e.hand .envelope (verifiedOps before e.st.env.slots)

/-- The Economy Unit at a commit (R115). -/
def State.commitEcon (s : State) : State :=
  { s with econ := s.econ.takePlan s.inForce.econ (s.power == .run) s.meas.press.anyPilot }

/-- The item alerts of a commit, from the items before it, and SERVICE_STATUS when a record changed (R126,
R128, R129). -/
def Ev.settleCommit (e : Ev) (before : List Item) : Ev :=
  let e := (e.hand .service (commitItemOps before e.st.svc.items)).upd fun s =>
    { s with svc := { s.svc with items := settleItems s.svc.items } }
  { e with statusDue := e.statusDue || e.st.svc.items != before }

/-- The blocks evaluate at a commit, from the state before it (R25, R41, R56, R81, R115): the pose when the
geometry changed. -/
def Ev.commitEvaluate (e : Ev) (before : State) : Ev :=
  let e := if before.inForce.geom = e.st.inForce.geom then e else e.evalPose
  (e.evalCycle.evalGrade.commitEnv before.env.slots).upd State.commitEcon

/-- A successful commit (R157): the plan is adopted, every block takes its sections, then they evaluate and
hand on; the plan image write is asked for, and then a checkpoint (R129, R159, R174). -/
def Ev.commit (e : Ev) (plan : ActivePlan) (c : PlanContent) : Ev :=
  let before := e.st
  let e := (e.hand .plan (commitOps before.plan.active)).upd fun s =>
    ((s.adopt plan c).takeSections c).place .xferResult .gateway (xferDoneData (some plan))
  ((e.commitEvaluate before).settleCommit before.svc.items).upd fun s =>
    s.requestImageWrite.requestCheckpoint

/-- A failed commit (R158). -/
def State.failCommit (s : State) (k : Section) (why : CommitReason) : State :=
  { s with plan := s.plan.abandon }.place .xferResult .gateway (xferFailedData k why s.plan.active)

/-- The commit judged (R156). -/
def Ev.judge (e : Ev) : Ev :=
  match judgeCommit e.st.plan.staging with
  | .ok (plan, c) => e.commit plan c
  | .error (k, why) => e.upd fun s => s.failCommit k why

/-- An XFER_END taken or refused (R154): the section settled, and for INDEX the commit judged. -/
def takeEnd (p : Party) (e : Ev) : Ev :=
  e.whileAwake p .xferEnd fun e =>
    let t := e.st.plan
    if t.xfer ≠ .receiving then e.answer p .xferEnd .refusedState 0
    else
      let e := e.upd fun s => s.endSection (if t.expected = t.declared then .received else .short)
      (if t.receiving = .index then e.judge else e).answer p .xferEnd .done 0

/-- XFER_END (R154). -/
def execXferEnd (f : Frame) (s : State) : Answer := .next (receiveRequest .xferEnd f s takeEnd)

/-! ### XFER_ABORT (R155) -/

/-- An XFER_ABORT taken or refused. -/
def takeAbort (p : Party) (e : Ev) : Ev :=
  e.whileAwake p .xferAbort fun e =>
    (e.upd fun s => { s with plan := s.plan.abort }).answer p .xferAbort .done 0

/-- XFER_ABORT (R155). -/
def execXferAbort (f : Frame) (s : State) : Answer := .next (receiveRequest .xferAbort f s takeAbort)

end Sys2Proof.Machine
end

