-- ==== Sys2Proof/Machine/Dispatch.lean ====
section
/-! DEFINITION. The dispatch of every command to its meaning. -/

namespace Sys2Proof.Machine

def exec (i : Instr) (s : State) : Host.Outcome State Fault Refusal :=
  match i with
  | .jointSample f => Sys2Proof.Machine.execJointSample f s
  | .frameSample f => Sys2Proof.Machine.execFrameSample f s
  | .slewSample f => Sys2Proof.Machine.execSlewSample f s
  | .pressureSample f => Sys2Proof.Machine.execPressureSample f s
  | .engineStatus f => Sys2Proof.Machine.execEngineStatus f s
  | .valveStatus f => Sys2Proof.Machine.execValveStatus f s
  | .frameNotForPart kind f => Sys2Proof.Machine.execFrameNotForPart kind f s
  | .benchmarkCapture f => Sys2Proof.Machine.execBenchmarkCapture f s
  | .guardSet f => Sys2Proof.Machine.execGuardSet f s
  | .fenceSet f => Sys2Proof.Machine.execFenceSet f s
  | .fenceClear f => Sys2Proof.Machine.execFenceClear f s
  | .fencesConfirm f => Sys2Proof.Machine.execFencesConfirm f s
  | .econMode f => Sys2Proof.Machine.execEconMode f s
  | .econCap f => Sys2Proof.Machine.execEconCap f s
  | .siteStepCap f => Sys2Proof.Machine.execSiteStepCap f s
  | .serviceDefer f => Sys2Proof.Machine.execServiceDefer f s
  | .serviceDone f => Sys2Proof.Machine.execServiceDone f s
  | .alertTake f => Sys2Proof.Machine.execAlertTake f s
  | .alertRelease f => Sys2Proof.Machine.execAlertRelease f s
  | .alertMask f => Sys2Proof.Machine.execAlertMask f s
  | .planRequest f => Sys2Proof.Machine.execPlanRequest f s
  | .xferOpen f => Sys2Proof.Machine.execXferOpen f s
  | .xferData f => Sys2Proof.Machine.execXferData f s
  | .xferEnd f => Sys2Proof.Machine.execXferEnd f s
  | .xferAbort f => Sys2Proof.Machine.execXferAbort f s
  | .read f => Sys2Proof.Machine.execRead f s
  | .faultClear f => Sys2Proof.Machine.execFaultClear f s
  | .wake f => Sys2Proof.Machine.execWake f s
  | .sleep f => Sys2Proof.Machine.execSleep f s
  | .txSuccess p earlier => Sys2Proof.Machine.execTxSuccess p earlier s
  | .txError p => Sys2Proof.Machine.execTxError p s
  | .portRejoin p => Sys2Proof.Machine.execPortRejoin p s
  | .keyOn => Sys2Proof.Machine.execKeyOn s
  | .keyOff => Sys2Proof.Machine.execKeyOff s
  | .powerLoss cause => Sys2Proof.Machine.execPowerLoss cause s
  | .coldStart => Sys2Proof.Machine.execColdStart s
  | .startingReadComplete => Sys2Proof.Machine.execStartingReadComplete s
  | .checkpointReport completed => Sys2Proof.Machine.execCheckpointReport completed s
  | .planImageWriteReport completed => Sys2Proof.Machine.execPlanImageWriteReport completed s
  | .pendingCheckpointStart => Sys2Proof.Machine.execPendingCheckpointStart s
  | .planImageWriteStart => Sys2Proof.Machine.execPlanImageWriteStart s
  | .enterParked => Sys2Proof.Machine.execEnterParked s
  | .startPlanWanted => Sys2Proof.Machine.execStartPlanWanted s
  | .readNextPage r => Sys2Proof.Machine.execReadNextPage r s
  | .jointHeldExpiry j => Sys2Proof.Machine.execJointHeldExpiry j s
  | .jointInvalidExpiry j => Sys2Proof.Machine.execJointInvalidExpiry j s
  | .frameHeldExpiry => Sys2Proof.Machine.execFrameHeldExpiry s
  | .frameInvalidExpiry => Sys2Proof.Machine.execFrameInvalidExpiry s
  | .slewExpiry => Sys2Proof.Machine.execSlewExpiry s
  | .abandonTimeExpiry => Sys2Proof.Machine.execAbandonTimeExpiry s
  | .idleDelayExpiry => Sys2Proof.Machine.execIdleDelayExpiry s
  | .hundredthHourCompletion step => Sys2Proof.Machine.execHundredthHourCompletion step s
  | .highPressureMinute => Sys2Proof.Machine.execHighPressureMinute s
  | .gradeStatusPeriod => Sys2Proof.Machine.execGradeStatusPeriod s
  | .envelopeStatusPeriod => Sys2Proof.Machine.execEnvelopeStatusPeriod s
  | .capSetPeriod => Sys2Proof.Machine.execCapSetPeriod s
  | .stepDemandPeriod => Sys2Proof.Machine.execStepDemandPeriod s
  | .econStatusPeriod => Sys2Proof.Machine.execEconStatusPeriod s
  | .echoTimerExpiry => Sys2Proof.Machine.execEchoTimerExpiry s
  | .linkSilentExpiry l => Sys2Proof.Machine.execLinkSilentExpiry l s
  | .linkOfflineExpiry l => Sys2Proof.Machine.execLinkOfflineExpiry l s
  | .requestTimerExpiry => Sys2Proof.Machine.execRequestTimerExpiry s
  | .inactivityTimerExpiry => Sys2Proof.Machine.execInactivityTimerExpiry s
  | .serviceAwakeTimerExpiry => Sys2Proof.Machine.execServiceAwakeTimerExpiry s
  | .recessiveRunObserved p => Sys2Proof.Machine.execRecessiveRunObserved p s

end Sys2Proof.Machine
end

