-- ==== Sys2Proof/Machine/Tick.lean ====
section
/-! DEFINITION. One millisecond (DESIGN CHOICE, log 1): the ages, timers, periods and accumulators that run
in the power state at hand, and the expiries that fall due. A step on an empty queue is one tick. -/

namespace Sys2Proof.Machine

/-! ### What runs -/

/-- The ages of the measurement records run in RUN (R1). -/
def Meas.tick (m : Meas) : Meas :=
  { m with
    boom := { m.boom with age := m.boom.age + 1 }
    stick := { m.stick with age := m.stick.age + 1 }
    bucket := { m.bucket with age := m.bucket.age + 1 }
    frame := { m.frame with age := m.frame.age + 1 }
    slew := { m.slew with age := m.slew.age + 1 } }

/-- The state age runs in RUN, and the rest time while the implement pilot flag is clear (R34). -/
def Cycle.tick (c : Cycle) (implementFlag : Bool) : Cycle :=
  { c with
    age := addSat Config.maxU32 c.age 1
    rest := if implementFlag then c.rest else addSat Config.maxU32 c.rest 1 }

/-- The age of the engine record runs in RUN (R96), and the idle timer while both pilot flags are clear
(R108). -/
def Econ.tick (c : Econ) (pilots : Bool) : Econ :=
  { c with
    engine := { c.engine with age := addSat Config.maxU16 c.engine.age 1 }
    idleTimer := if pilots then c.idleTimer else c.idleTimer + 1 }

/-- One millisecond charged to a step's accumulator (R117). -/
def chargeStep (acc : List Accumulator) (step : Nat) : List Accumulator :=
  let a := atStep acc step { whole := 0, rem := 0 }
  acc.set (step - 1) { a with rem := a.rem + 1 }

/-- The accumulators and the high-pressure remainder gain as the charging state says (R117, R120). -/
def Meters.tick (m : Meters) (c : Charging) : Meters :=
  { m with
    acc := if c.running then chargeStep m.acc c.step else m.acc
    highRem := if c.high then m.highRem + 1 else m.highRem }

/-- The echo timer runs in DISAGREEING (R93). -/
def Merger.tick (m : Merger) : Merger :=
  { m with echoTimer := if m.check = .disagreeing then m.echoTimer - 1 else m.echoTimer }

/-- The periods of the periodic messages (R50, R80, R88, R110, R111). -/
def Periods.tick (p : Periods) : Periods :=
  { grade := p.grade + 1, envelope := p.envelope + 1, capSet := p.capSet + 1, step := p.step + 1,
    econ := p.econ + 1 }

/-- A link's silence time (R167). -/
def LinkRec.tick (l : LinkRec) (runs : Bool) : LinkRec :=
  if runs then { l with silence := addSat Config.maxU16 l.silence 1 } else l

/-- The silence times that run in a power state (R167). -/
def Links.tick (l : Links) (w : Power) : Links :=
  { engine := l.engine.tick (silenceRuns w .engine), cab := l.cab.tick (silenceRuns w .cab),
    valve := l.valve.tick (silenceRuns w .valve), gateway := l.gateway.tick (silenceRuns w .gateway),
    sensor := l.sensor.tick (silenceRuns w .sensor) }

/-- The timers of the transfer (R150). -/
def PlanStore.tick (p : PlanStore) : PlanStore :=
  match p.xfer with
  | .requested => { p with requestTimer := p.requestTimer - 1 }
  | .opened | .receiving => { p with inactTimer := p.inactTimer - 1 }
  | .idle => p

/-- What runs in RUN alone. -/
def State.tickRun (s : State) : State :=
  { s with
    meas := s.meas.tick
    cycle := s.cycle.tick s.meas.press.implementFlag
    econ := s.econ.tick s.meas.press.anyPilot
    svc := { s.svc with meters := s.svc.meters.tick s.charge }
    caps := s.caps.tick
    periods := s.periods.tick }

/-- The time of one millisecond passed in every block. -/
def State.advance (s : State) : State :=
  let s := if s.power = .run then s.tickRun else s
  { s with
    links := s.links.tick s.power
    plan := if s.power.awake then s.plan.tick else s.plan
    ctrl := if s.power = .serviceAwake then { s.ctrl with awakeTimer := s.ctrl.awakeTimer - 1 } else s.ctrl }

/-! ### What falls due -/

/-- A command that falls due when a condition holds. -/
def dueWhen (c : Bool) (i : Instr) : List Instr := if c then [i] else []

/-- The expiries of a joint (R5, R6). -/
def jointDue (m : Meas) (j : Joint) : List Instr :=
  let r := m.joint j
  dueWhen (r.age == heldAge && (r.quality == .good || r.quality == .two)) (.jointHeldExpiry j) ++
    dueWhen (r.age == lostAge && (r.quality == .held || (r.quality == .invalid && !r.invalidStands)))
      (.jointInvalidExpiry j)

/-- The expiries of the frame (R7). -/
def frameDue (r : FrameRec) : List Instr :=
  dueWhen (r.age == heldAge && r.quality == .good) .frameHeldExpiry ++
    dueWhen (r.age == lostAge && (r.quality == .held || (r.quality == .invalid && !r.invalidStands)))
      .frameInvalidExpiry

/-- What falls due in RUN. -/
def State.runDue (s : State) : List Instr :=
  jointDue s.meas .boom ++ jointDue s.meas .stick ++ jointDue s.meas .bucket ++ frameDue s.meas.frame ++
  dueWhen (s.meas.slew.age == lostAge) .slewExpiry ++
  dueWhen (s.cycle.rest == s.inForce.limits.abandonTime * 1000) .abandonTimeExpiry ++
  dueWhen s.idleDue .idleDelayExpiry ++
  dueWhen (decide (hundredthHour ≤ (atStep s.svc.meters.acc s.charge.step { whole := 0, rem := 0 }).rem))
    (.hundredthHourCompletion s.charge.step) ++
  dueWhen (decide (highMinute ≤ s.svc.meters.highRem)) .highPressureMinute ++
  dueWhen (decide (gradePeriod ≤ s.periods.grade)) .gradeStatusPeriod ++
  dueWhen (decide (envelopePeriod ≤ s.periods.envelope)) .envelopeStatusPeriod ++
  dueWhen (s.caps.sending && decide (capSetPeriodMs ≤ s.periods.capSet)) .capSetPeriod ++
  dueWhen (decide (stepDemandPeriodMs ≤ s.periods.step)) .stepDemandPeriod ++
  dueWhen (decide (econStatusPeriodMs ≤ s.periods.econ)) .econStatusPeriod ++
  dueWhen (s.caps.check == .disagreeing && s.caps.echoTimer == 0) .echoTimerExpiry

/-- The expiries of a link (R167). -/
def linkDue (s : State) (p : Party) : List Instr :=
  let l := s.links.get p
  dueWhen (silenceRuns s.power p && l.state == .online && l.silence == p.silentTime) (.linkSilentExpiry p) ++
    dueWhen (silenceRuns s.power p && (l.state == .silent || (l.state == .offline && !l.offlineStands)) &&
      l.silence == p.offlineTime) (.linkOfflineExpiry p)

/-- Every expiry that falls due at the end of a millisecond, in the order of the table. -/
def State.due (s : State) : List Instr :=
  (if s.power = .run then s.runDue else []) ++
  (Party.all.map (linkDue s)).flatten ++
  dueWhen (s.power.awake && s.plan.xfer == .requested && s.plan.requestTimer == 0) .requestTimerExpiry ++
  dueWhen (s.power.awake && (s.plan.xfer == .opened || s.plan.xfer == .receiving) && s.plan.inactTimer == 0)
    .inactivityTimerExpiry ++
  dueWhen (s.power == .serviceAwake && s.ctrl.awakeTimer == 0) .serviceAwakeTimerExpiry

/-- One millisecond on an empty queue: time advances, and the expiries that fall due are queued. -/
def State.tick (s : State) : State :=
  let t := s.advance
  { t with pending := t.due }

end Sys2Proof.Machine
end

