-- ==== Sys2Proof/Safety.lean ====
section
/-! DEFINITION. What a safe step and a sound state are: the predicates that the statements use. A frame is
said with `OnlyChanges`; the invariants follow the blocks of the part. -/

namespace Sys2Proof.Machine

/-- A step answers a next state: it neither faults nor refuses. -/
def Answers (o : Host.Outcome State Fault Refusal) : Prop := ∃ t, o = .next t

/-! ### Frames -/

/-- The fields of `State`. -/
inductive Block where
  | power | pins | chip | ctrl | plan | inForce | meas | pose | cycle | grade | env | caps | econ | step
  | charge | svc | alerts | periods | ports | links | fault | reads | orders | pending
  deriving DecidableEq, Repr

/-- A field has the same value in two states. -/
def Block.same (b : Block) (s t : State) : Prop :=
  match b with
  | .power => t.power = s.power | .pins => t.pins = s.pins | .chip => t.chip = s.chip
  | .ctrl => t.ctrl = s.ctrl | .plan => t.plan = s.plan | .inForce => t.inForce = s.inForce
  | .meas => t.meas = s.meas | .pose => t.pose = s.pose | .cycle => t.cycle = s.cycle
  | .grade => t.grade = s.grade | .env => t.env = s.env | .caps => t.caps = s.caps
  | .econ => t.econ = s.econ | .step => t.step = s.step | .charge => t.charge = s.charge
  | .svc => t.svc = s.svc | .alerts => t.alerts = s.alerts | .periods => t.periods = s.periods
  | .ports => t.ports = s.ports | .links => t.links = s.links | .fault => t.fault = s.fault
  | .reads => t.reads = s.reads | .orders => t.orders = s.orders | .pending => t.pending = s.pending

/-- Every field outside a list has the same value in two states. -/
def OnlyChanges (l : List Block) (s t : State) : Prop := ∀ b : Block, b ∉ l → b.same s t

/-- What the end of every event may bring up to date (R85, R106, R138, R142, R165): the merged caps, the
judged step and the charging state, the alert list with the count of free values, and the transmit lists with
their periods. -/
def outputs : List Block := [.caps, .step, .charge, .alerts, .periods, .ports, .orders]

/-- The messages that the end of an event may place: the periodic and on-change messages of R50, R80, R88,
R110, R111, R128 and R142. -/
def atEventEnd : TxKind → Bool
  | .capSet | .gradeStatus | .envelopeStatus | .stepDemand | .econStatus | .serviceStatus | .alertOffer => true
  | .reqResult | .readData | .planWanted | .xferReady | .xferSum | .xferResult => false

/-- A message of a kind for a party waits on its port with this content (R165). -/
def Waits (t : State) (k : TxKind) (p : Party) (data : List Byte) : Prop :=
  { kind := k, dest := p.node, data := data } ∈ (t.ports.get p.port).list

/-- A port stands on its bus as before: only its transmit list may differ (R166). -/
def SameBus (q : Port) (s t : State) : Prop :=
  (t.ports.get q).bus = (s.ports.get q).bus ∧ (t.ports.get q).errors = (s.ports.get q).errors ∧
    (t.ports.get q).recovery = (s.ports.get q).recovery ∧ (t.ports.get q).busOffs = (s.ports.get q).busOffs

/-- Both ports stand on their buses as before. -/
def SameBuses (s t : State) : Prop := ∀ q, SameBus q s t

/-- Apart from the messages named, and those of the end of an event, the same messages wait before and
after. -/
def MessagesKept (m : List (TxKind × Party)) (s t : State) : Prop :=
  ∀ k p d, (k, p) ∉ m → atEventEnd k = false → (Waits t k p d ↔ Waits s k p d)

/-- The alerts that the end of an event may raise or withdraw (R107). -/
def endCodes : List AlertCode := [.engineDerateFloor]

/-- The mask is kept, and apart from the codes named and those of the end of an event, every entry of the
Alert List stood in it before (R135, R136, R139). Any entry may leave it by eviction (R137). -/
def AlertsKept (c : List AlertCode) (s t : State) : Prop :=
  t.alerts.mask = s.alerts.mask ∧
    ∀ e ∈ t.alerts.entries, e.code ∉ c → e.code ∉ endCodes → e ∈ s.alerts.entries

/-- The frame of an event: beside the fields named it changes what the end of an event brings up to date; the
buses stand; and of the messages and the alerts it touches only the kinds and codes named. -/
def Keeps (l : List Block) (m : List (TxKind × Party)) (c : List AlertCode) (s t : State) : Prop :=
  OnlyChanges (l ++ outputs) s t ∧ SameBuses s t ∧ MessagesKept m s t ∧ AlertsKept c s t

/-- The frame of an event of a port's bus (R166): the other port stands, and so do the messages; links, the
engine's window and the alerts of both may change. -/
def PortEvent (p : Port) (s t : State) : Prop :=
  (∀ q, q ≠ p → SameBus q s t) ∧ MessagesKept [] s t ∧ OnlyChanges (.links :: .econ :: outputs) s t ∧
    AlertsKept [.linkSilent, .portBusOff] s t

/-- The one raise of an event: into a list with room and no entry of the code and subject it puts this entry
(R135). -/
def Raised (s t : State) (c : AlertCode) (subj : Subject) (priority : Nat) : Prop :=
  s.alerts.entries.length < 24 → (∀ e ∈ s.alerts.entries, ¬(e.code = c ∧ e.subject = subj)) →
    { code := c, subject := subj, priority := priority, seq := s.alerts.nextSeq, acked := false,
      inService := false, resolved := false, repeats := 1, hourAt := s.svc.meters.hour } ∈ t.alerts.entries

/-- A raise among others of an event, in a list that all the entries it made leave with room: an entry of the
code and subject stands, its flags clear, counting one raise more than before; a new one has the priority of
R146 (R135, R136). -/
def RaisedAmong (s t : State) (c : AlertCode) (subj : Subject) : Prop :=
  s.alerts.entries.length + (t.alerts.nextSeq - s.alerts.nextSeq) < 24 →
    ∃ e ∈ t.alerts.entries, e.code = c ∧ e.subject = subj ∧ e.acked = false ∧ e.resolved = false ∧
      match s.alerts.find c subj with
      | some o => e.repeats = min 255 (o.repeats + 1)
      | none => e.repeats = 1 ∧ e.priority = alertPriority c subj

/-- A condition stands, as the record of its owner has it (R6, R7, R10, R31, R53, R71, R72, R78, R94, R107,
R126, R160, R166, R167, R172). -/
def Stands (s : State) (c : AlertCode) (subj : Subject) : Prop :=
  match c, subj with
  | .jointSpread, .joint j => (s.meas.joint j).lastVote = .two ∧ (s.meas.joint j).quality ≠ .invalid
  | .jointInvalid, .joint j => (s.meas.joint j).invalidStands = true
  | .frameInvalid, .none => s.meas.frame.invalidStands = true
  | .slewEncoderFault, .none => s.meas.slew.encoder = .fault
  | .tilt, .none => s.pose.tilt = true
  | .guardSuspended, .none => s.grade.guard = .suspended
  | .fenceApproach, .slot n => 1 ≤ n ∧ (slotAt s.env.slots n).alert = some .approach
  | .fenceHeld, .slot n => 1 ≤ n ∧ (slotAt s.env.slots n).alert = some .held
  | .fenceBreached, .slot n => 1 ≤ n ∧ (slotAt s.env.slots n).alert = some .breached
  | .fenceIndeterminate, .slot n => 1 ≤ n ∧ (slotAt s.env.slots n).alert = some .indeterminate
  | .slewUnindexed, .none => s.env.unindexed = true
  | .fencesUnverified, .none => ∃ k ∈ s.env.slots, ∃ f, k.fence = some f ∧ f.verified = false
  | .valveEchoMismatch, .none => s.caps.check = .mismatched
  | .engineDerateFloor, .none => s.step.floorStands = true
  | .serviceDueSoon, .item n => ∃ i ∈ s.svc.items, i.defn.number = n ∧ i.alert = some .dueSoon
  | .serviceDue, .item n => ∃ i ∈ s.svc.items, i.defn.number = n ∧ i.alert = some .due
  | .serviceOverdue, .item n => ∃ i ∈ s.svc.items, i.defn.number = n ∧ i.alert = some .overdue
  | .planNone, .none => s.plan.active = none
  | .linkSilent, .party p => (s.links.get p).state = .silent
  | .linkOffline, .party p => (s.links.get p).state = .offline ∧ (s.links.get p).offlineStands = true
  | .portBusOff, .port p => (s.ports.get p).bus = .busOff
  | .storeAccountsLost, .none => s.ctrl.accountsLost = true
  | _, _ => False

/-- The alerts of some codes follow their conditions through an event: a condition that comes to stand is
raised, and one that ceases to stand leaves no entry but a resolved one (R135, R136, R139). -/
def AlertsFollow (c : List AlertCode) (s t : State) : Prop :=
  ∀ code ∈ c, ∀ subj,
    (¬Stands s code subj → Stands t code subj → RaisedAmong s t code subj) ∧
    (Stands s code subj → ¬Stands t code subj →
      ∀ e ∈ t.alerts.entries, e.code = code → e.subject = subj → e.resolved = true)

/-- The Alert List of a start or a wake: empty but for the conditions that then stand, each raised, with mask 0
(R133, R145, R172, R176). -/
def AlertsAnew (s t : State) : Prop :=
  t.alerts.mask = 0 ∧
  (∀ e ∈ t.alerts.entries, Stands t e.code e.subject ∧ e.inService = false ∧ e.hourAt = t.svc.meters.hour) ∧
  ∀ code subj, Stands t code subj →
    RaisedAmong { s with alerts := { s.alerts with entries := [] } } t code subj

/-- The alerts of a link (R167). -/
def linkCodes : List AlertCode := [.linkSilent, .linkOffline]

/-- The alerts of the fences (R71, R72, R78). -/
def fenceCodes : List AlertCode :=
  [.fenceApproach, .fenceHeld, .fenceBreached, .fenceIndeterminate, .slewUnindexed, .fencesUnverified]

/-- The alerts of the service items (R126). -/
def itemCodes : List AlertCode := [.serviceDueSoon, .serviceDue, .serviceOverdue]

/-- The alerts of the Measurement Unit's records and of what is judged from them (R6, R7, R10, R15, R31,
R53). -/
def measureCodes : List AlertCode :=
  [.jointSpread, .jointInvalid, .frameInvalid, .slewEncoderFault, .slewCalFailed, .tilt, .guardSuspended]

/-- What the hand-ons of changed measurement records may change (R17). -/
def handOnBlocks : List Block := [.pose, .cycle, .grade, .env, .econ, .charge, .svc]

/-- The alerts that a change of the measurement records may raise or withdraw (R17). -/
def handOnCodes : List AlertCode := measureCodes ++ fenceCodes ++ itemCodes

/-! ### Frames of the bus that reach the part -/

/-- A frame is heard from a party (R162): the part listens, the frame arrives on the port that the table
gives for its source node, and that port is ON_BUS. -/
def Heard (s : State) (f : Frame) (p : Party) : Prop :=
  (s.power = .run ∨ s.power = .parking ∨ s.power = .serviceAwake) ∧
    (s.ports.get f.port).bus = .onBus ∧ f.src = p.node ∧ f.port = p.port

/-- A frame of a kind reaches the block that owns the kind (R162, R163): heard, addressed to the part, from a
party that may send it, with its length. -/
def Delivered (s : State) (k : RxKind) (f : Frame) (p : Party) : Prop :=
  Heard s f p ∧ (f.dest = partNode ∨ f.dest = broadcastNode) ∧
    (if k.isRequest then permits k p = true else k.sender = some p) ∧ k.lengthOk f.data = true

/-- The link records after a frame of a party (R167). -/
def heardLinks (s : State) (p : Party) : Links :=
  s.links.set p { state := .online, silence := 0, offlineStands := false }

/-- The Alert List after a frame of a party: its link alert withdrawn, if one stands (R139, R167). -/
def heardAlerts (s : State) (p : Party) : Alerts :=
  match (s.links.get p).state, (s.links.get p).offlineStands with
  | .silent, _ => withdrawAlert s.alerts .linkSilent (.party p)
  | .offline, true => withdrawAlert s.alerts .linkOffline (.party p)
  | _, _ => s.alerts

/-- The state in which a request is judged: its sender's link is heard (R167), and its arrival has restarted
the gateway's timers (R150, R177). -/
def heardState (s : State) (k : RxKind) (p : Party) : State :=
  { s.gatewayArrival k p with links := heardLinks s p, alerts := heardAlerts s p }

/-- A request is answered (R163): REQ_RESULT waits for its sender. -/
def Answered (t : State) (p : Party) (k : RxKind) (r : Result) (detail : Nat) : Prop :=
  Waits t .reqResult p (reqResultData k r detail)

/-- A request is taken: its sender's link is heard (R167), it is answered (R163), and apart from the link,
the answer and what is named, nothing changes but what the end of an event brings up to date. -/
def Taken (s t : State) (p : Party) (k : RxKind) (r : Result) (detail : Nat) (l : List Block)
    (m : List (TxKind × Party)) (c : List AlertCode) : Prop :=
  t.links = heardLinks s p ∧ Answered t p k r detail ∧
    Keeps (.links :: l) ((.reqResult, p) :: m) (linkCodes ++ c) s t

/-- A request is refused (R163, R164): answered so, offered to the message fault record, and nothing changes
but its sender's link, the timers its arrival restarts, and what the end of an event brings up to date. -/
def RefusedWith (s t : State) (p : Party) (k : RxKind) (r : Result) : Prop :=
  t.links = heardLinks s p ∧ Answered t p k r 0 ∧ t.fault = offerFault s.fault p k r s.svc.meters.hour ∧
    t.ctrl = (s.gatewayArrival k p).ctrl ∧ t.plan = (s.gatewayArrival k p).plan ∧
    Keeps [.links, .fault, .ctrl, .plan] [(.reqResult, p)] linkCodes s t

/-! ### The echo record (R92, R93) -/

/-- The Cap Merger's echo record stands: the check, its mismatched functions, its timer, and the two records of
CAP_SETs sent. -/
def EchoKept (s t : State) : Prop :=
  t.caps.check = s.caps.check ∧ t.caps.mismatched = s.caps.mismatched ∧ t.caps.echoTimer = s.caps.echoTimer ∧
    t.caps.lastSent = s.caps.lastSent ∧ t.caps.sentBefore = s.caps.sentBefore

/-! ### The passing of time (log 1) -/

/-- The expiry or period of a command falls due at the end of a millisecond: in RUN those of the measurement
records (R5 to R7, R13), the abandon time (R35), the idle delay (R108), a full accumulator (R117, R120), the
periods (R50, R80, R88, R110, R111) and the echo timer (R94); the silence times where they run (R167); and the
timers of the transfer (R151, R155) and of SERVICE_AWAKE (R177). -/
def FallsDue (t : State) : Instr → Prop
  | .jointHeldExpiry j => t.power = .run ∧ (t.meas.joint j).age = 60 ∧
      ((t.meas.joint j).quality = .good ∨ (t.meas.joint j).quality = .two)
  | .jointInvalidExpiry j => t.power = .run ∧ (t.meas.joint j).age = 250 ∧
      ((t.meas.joint j).quality = .held ∨
        ((t.meas.joint j).quality = .invalid ∧ (t.meas.joint j).invalidStands = false))
  | .frameHeldExpiry => t.power = .run ∧ t.meas.frame.age = 60 ∧ t.meas.frame.quality = .good
  | .frameInvalidExpiry => t.power = .run ∧ t.meas.frame.age = 250 ∧
      (t.meas.frame.quality = .held ∨ (t.meas.frame.quality = .invalid ∧ t.meas.frame.invalidStands = false))
  | .slewExpiry => t.power = .run ∧ t.meas.slew.age = 250
  | .abandonTimeExpiry => t.power = .run ∧ t.cycle.rest = t.inForce.limits.abandonTime * 1000
  | .idleDelayExpiry => t.power = .run ∧ t.econ.idle = .active ∧ t.meas.press.travelFlag = false ∧
      t.meas.press.implementFlag = false ∧ t.inForce.econ.idleDelay * 1000 ≤ t.econ.idleTimer
  | .hundredthHourCompletion k => t.power = .run ∧ k = t.charge.step ∧
      36000 ≤ (t.svc.meters.acc.getD (k - 1) { whole := 0, rem := 0 }).rem
  | .highPressureMinute => t.power = .run ∧ 60000 ≤ t.svc.meters.highRem
  | .gradeStatusPeriod => t.power = .run ∧ 100 ≤ t.periods.grade
  | .envelopeStatusPeriod => t.power = .run ∧ 200 ≤ t.periods.envelope
  | .capSetPeriod => t.power = .run ∧ t.caps.sending = true ∧ 50 ≤ t.periods.capSet
  | .stepDemandPeriod => t.power = .run ∧ 200 ≤ t.periods.step
  | .econStatusPeriod => t.power = .run ∧ 500 ≤ t.periods.econ
  | .echoTimerExpiry => t.power = .run ∧ t.caps.check = .disagreeing ∧ t.caps.echoTimer = 0
  | .linkSilentExpiry p => (t.power = .run ∨ t.power = .parking ∨ (t.power = .serviceAwake ∧ p = .gateway)) ∧
      (t.links.get p).state = .online ∧ (t.links.get p).silence = p.silentTime
  | .linkOfflineExpiry p => (t.power = .run ∨ t.power = .parking ∨ (t.power = .serviceAwake ∧ p = .gateway)) ∧
      ((t.links.get p).state = .silent ∨
        ((t.links.get p).state = .offline ∧ (t.links.get p).offlineStands = false)) ∧
      (t.links.get p).silence = p.offlineTime
  | .requestTimerExpiry => (t.power = .run ∨ t.power = .serviceAwake) ∧ t.plan.xfer = .requested ∧
      t.plan.requestTimer = 0
  | .inactivityTimerExpiry => (t.power = .run ∨ t.power = .serviceAwake) ∧
      (t.plan.xfer = .opened ∨ t.plan.xfer = .receiving) ∧ t.plan.inactTimer = 0
  | .serviceAwakeTimerExpiry => t.power = .serviceAwake ∧ t.ctrl.awakeTimer = 0
  | _ => False

/-! ### The work cycle (R36 to R39) -/

/-- What the Cycle Monitor reads changed: the pose record, the slew direction, the pump pressure or a pilot
flag (R36). -/
def CycleDue (s t : State) : Prop :=
  t.pose.record ≠ s.pose.record ∨ t.meas.slew.dir ≠ s.meas.slew.dir ∨ t.meas.press.pump ≠ s.meas.press.pump ∨
    t.meas.press.travelFlag ≠ s.meas.press.travelFlag ∨ t.meas.press.implementFlag ≠ s.meas.press.implementFlag

/-- The Cycle Monitor's state after an event, from the one it began with, and whether a cycle was completed: an
evaluation of the records reached where one is due, and otherwise that state; a change of state goes to the
Economy Unit (R36, R38, R39). -/
def CycleTaken (c : Cycle) (due : Prop) (done : Bool) (s t : State) : Prop :=
  (due → (t.cycle, done) = c.evaluate
    { pose := t.pose.record, pump := t.meas.press.pump, dir := t.meas.slew.dir,
      travel := t.meas.press.travelFlag, limits := t.inForce.limits }) ∧
  (¬due → t.cycle = c ∧ done = false) ∧
  t.econ.cycleCopy = (if t.cycle.state = c.state then s.econ.cycleCopy else t.cycle.state)

/-- The transitions of the table of R37, outside the abandon condition. -/
def CycleMove (i : CycleIn) : CycleState → CycleState → Prop
  | .idle, .digging => i.pose.zt < i.limits.digHeight ∧ i.limits.digPressure ≤ i.pump
  | .digging, .swingLoaded => i.dir ≠ .still ∧ i.limits.digHeight ≤ i.pose.zt
  | .swingLoaded, .dumping => i.limits.dumpAngle ≤ i.pose.bucketAngle
  | .dumping, .swingEmpty => i.dir ≠ .still
  | .swingEmpty, .digging => i.pose.zt < i.limits.digHeight ∧ i.limits.digPressure ≤ i.pump
  | _, _ => False

/-! ### Fences (R60) -/

/-- The slew cap of R60 at a remaining angle. -/
def stopCap (c : Limits) (d : Nat) : Nat :=
  if d ≤ c.margin then 0 else min 1000 (1000 * isqrt (2 * c.decel * (d - c.margin)) / c.vmax)

/-- `(b - a) mod 36000`, as the manual writes it. -/
def turn (a b : Nat) : Int := ((b : Int) - a) % 36000

/-- A slot of the fence table holds these contents, and every other slot those it held before. -/
def SlotSet (s t : State) (n : Nat) (x : Option Fence) : Prop :=
  (slotAt t.env.slots n).fence = x ∧
    ∀ k, 1 ≤ k → k ≤ 16 → k ≠ n → (slotAt t.env.slots k).fence = (slotAt s.env.slots k).fence

/-! ### Service items (R123, R129) -/

/-- The state that the thresholds of an item give at a used value (R123). -/
def ByThresholds (d : ItemDef) (used : Nat) (st : ItemState) : Prop :=
  (st = .overdue ↔ d.interval + d.margin ≤ used) ∧
  (st = .due ↔ d.interval ≤ used ∧ used < d.interval + d.margin) ∧
  (st = .dueSoon ↔ d.interval * d.warn / 100 ≤ used ∧ used < d.interval) ∧
  (st = .ok ↔ used < d.interval * d.warn / 100 ∧ used < d.interval)

/-- A usage part carried over to a definition (R129): used value and sign-offs are kept; within the interval
of a deferral a DEFERRED or OVERDUE item stays as it is; otherwise the deferral ends and the thresholds give
the state. -/
def Carried (d : ItemDef) (u v : Usage) : Prop :=
  v.used = u.used ∧ v.signOffs = u.signOffs ∧ v.hourAt = u.hourAt ∧
  v.deferredFlag = (u.deferredFlag && decide (d.interval ≤ u.used)) ∧
  (u.deferredFlag = true ∧ d.interval ≤ u.used ∧ (u.state = .deferred ∨ u.state = .overdue) → v = u) ∧
  (¬(u.deferredFlag = true ∧ d.interval ≤ u.used ∧ (u.state = .deferred ∨ u.state = .overdue)) →
    v.deferredUntil = none ∧ ByThresholds d u.used v.state)

/-- The items after an event that hands each basis a gain (R123): each item of a basis that gains is judged,
and its standing alert is the one its state calls for (R126). -/
def ItemsGain (gain : Basis → Nat) (s t : State) : Prop :=
  t.svc.items = s.svc.items.map fun i =>
    let j := if gain i.defn.basis = 0 then i else i.gain (gain i.defn.basis)
    { j with alert := j.usage.state.alert }

/-- No two items have one number (R122). -/
def ItemsDistinct (s : State) : Prop := s.svc.items.Pairwise fun i j => i.defn.number ≠ j.defn.number

/-- The Cycle Monitor and the accounts after a change of the measurement records, from the Cycle Monitor's
state and whether the slew reversed: a completion counts on the dig cycles and a reversal on the slew
reversals, each on the meter and on the items of that basis, and nothing else of the accounts changes (R36,
R121, R123). -/
def CycleCounts (c : Cycle) (reversal : Bool) (s t : State) : Prop :=
  ∃ done, CycleTaken c (CycleDue s t) done s t ∧
    t.svc.meters = { s.svc.meters with
      reversals := if reversal then addSat 4294967295 s.svc.meters.reversals 1 else s.svc.meters.reversals
      digCycles := if done then addSat 4294967295 s.svc.meters.digCycles 1 else s.svc.meters.digCycles } ∧
    t.svc.held = s.svc.held ∧
    ItemsGain (fun b => if (b = .digCycles ∧ done = true) ∨ (b = .slewReversals ∧ reversal = true) then 1 else 0)
      s t

/-! ### What follows a change of the measurement records (R17) -/

/-- What the fences are evaluated on changed: the pose record, the slew angle, its validity or the index state
(R59). -/
def FencesDue (s t : State) : Prop :=
  t.pose.record ≠ s.pose.record ∨ t.meas.slew.validAngle ≠ s.meas.slew.validAngle ∨
    t.meas.slew.state ≠ s.meas.slew.state

/-- The blocks that read the measurement records, after a change of them in RUN that is none of the pilot flags
(R25, R31, R49, R59, R68, R70): the pose, the guidance and the fences are evaluated when what they read changed
and stand otherwise. The benchmark, the guard switch and the contents of the fence slots stand, and of the
Economy Unit all but the copies of its neighbours' states. -/
def RecordsFollow (s t : State) : Prop :=
  t.pose = (if t.meas.poseIn = s.meas.poseIn then s.pose
    else { record := s.pose.record.evaluate s.inForce.geom t.meas.poseIn, tilt := t.meas.poseIn.tilt }) ∧
  t.grade = (if t.pose.record = s.pose.record then s.grade
    else s.grade.evaluate s.planActive s.inForce t.pose.record) ∧
  t.grade.bench = s.grade.bench ∧ t.grade.guardOn = s.grade.guardOn ∧
  (FencesDue s t →
    t.env = { slots := settleSlots t.judgedSlots
              crawl := crawlRow s.inForce.limits.crawl t.meas.slew.validAngle.isSome s.planActive
              unindexed := t.meas.slew.validAngle.isNone } ∧
    t.econ.stopCopy = stopInForce t.env.slots) ∧
  (¬FencesDue s t → t.env = s.env ∧ t.econ.stopCopy = s.econ.stopCopy) ∧
  t.env.slots.map (fun c => c.fence) = s.env.slots.map (fun c => c.fence) ∧
  t.econ = { s.econ with cycleCopy := t.econ.cycleCopy, stopCopy := t.econ.stopCopy }

/-! ### Fences that are not judged (R66, R67, R81, R83) -/

/-- The crawl demands of a fence on an INVALID pose and an invalid slew angle (R66, R67): the crawl cap on both
slew functions when its sector acts on the slew, and on the function of a height fence. -/
def crawlDemands (crawl : Nat) (g : FenceGeom) : Row :=
  let slew := if g.kind = .sector ∨ turn g.start g.stop ≠ 0 then crawl else 1000
  { slewLeft := slew, slewRight := slew
    boomUp := if g.kind = .ceiling then crawl else 1000, boomDown := if g.kind = .floor then crawl else 1000
    stickOut := if g.kind = .reach then crawl else 1000, stickIn := 1000, bucketCurl := 1000, bucketDump := 1000 }

/-- A slot that stands without an evaluation: no remaining distance and no alert; INDETERMINATE with the crawl
demands when it is occupied, and otherwise EMPTY without demands (R57, R81, R83). -/
def SlotUnjudged (crawl : Nat) (c : FenceSlot) : Prop :=
  c.remaining = none ∧ c.alert = none ∧
    match c.fence with
    | none => c.state = .empty ∧ c.demands = Row.free
    | some f => c.state = .indeterminate ∧ c.demands = crawlDemands crawl f.eff

/-! ### A wake (R176) -/

/-- The blocks after a wake from PARKED, whichever state it enters (R19, R33, R40, R55, R82, R91, R113, R133,
R148, R151, R165 to R168): the settings of a start, with the caps of the Economy Unit, the accounts, the
benchmark and the fences kept, and a pending start request made. -/
def WakeSettings (s t : State) : Prop :=
  t.meas = coldMeas s.meas.slew.nrev 0 ∧ t.pose = { record := coldPose, tilt := false } ∧
  t.cycle = { state := .idle, age := 0, rest := 0, session := 0, total := s.cycle.total } ∧
  t.grade.guardOn = false ∧ t.grade.bench = (if s.grade.bench.state = .current then
    { s.grade.bench with state := .stale } else s.grade.bench) ∧
  t.env.slots.map (fun c => c.fence) =
    s.env.slots.map (fun c => c.fence.map fun x => { x with verified := false }) ∧
  t.econ =
    { engine := coldEngine, selection := s.inForce.econ.startStep, manualStep := s.inForce.econ.startStep,
      mode := .auto, count := 0, sum := 0, down := 0, average := none, operatorCap := s.econ.operatorCap,
      siteCap := s.econ.siteCap, cycleCopy := .idle, travelCopy := false, stopCopy := t.econ.stopCopy,
      idle := .active, idleTimer := 0 } ∧
  t.inForce = s.inForce ∧ t.chip = s.chip ∧ t.svc.meters = s.svc.meters ∧ t.svc.held = s.svc.held ∧
  t.svc.items.map (fun i => (i.defn, i.usage)) = s.svc.items.map (fun i => (i.defn, i.usage)) ∧
  (s.plan.startPending = false → t.plan = { s.plan with
    staging := Seven.all emptyRegion, xfer := .idle, requestTimer := 0, inactTimer := 0 }) ∧
  (s.plan.startPending = true → t.plan = { s.plan with
      staging := Seven.all emptyRegion, xfer := .requested, requestTimer := 60000, inactTimer := 0,
      startPending := false } ∧
    Waits t .planWanted .gateway (planWantedData .start s.plan.active)) ∧
  t.caps.check = .noReference ∧ t.caps.mismatched = Eight.all false ∧ t.caps.echoTimer = 0 ∧
  t.caps.lastSent = none ∧ t.caps.sentBefore = none ∧
  t.links = coldLinks ∧ t.fault = none ∧ t.reads = noReads ∧ t.alerts.mask = 0 ∧
  (ItemsDistinct s → AlertsAnew s t) ∧
  ∀ q, (t.ports.get q).bus = .onBus ∧ (t.ports.get q).errors = 0 ∧ (t.ports.get q).recovery = 0 ∧
    (t.ports.get q).busOffs = 0

/-! ### The store port (R173) -/

/-- A checkpoint was asked for: with the store port free it starts, its snapshot that of the state reached and
its slot marked invalid; otherwise it is pending. -/
def CheckpointAsked (s t : State) : Prop :=
  (s.ctrl.writing = none → s.ctrl.imageWrite = .none →
    ∃ w, t.ctrl.writing = some w ∧ w.slot = checkpointSlot s.chip s.ctrl.current ∧
      w.seq = nextSequence s.ctrl.current ∧ w.image = accountImage t ∧ (t.chip.slot w.slot).valid = false ∧
      (∀ k, k ≠ w.slot → t.chip.slot k = s.chip.slot k) ∧ t.ctrl.pendingCkpt = false) ∧
  (s.ctrl.writing ≠ none ∨ s.ctrl.imageWrite ≠ .none →
    t.ctrl.writing = s.ctrl.writing ∧ t.ctrl.pendingCkpt = true ∧ t.chip = s.chip) ∧
  t.chip.image = s.chip.image ∧ t.ctrl.current = s.ctrl.current ∧ t.ctrl.parkingCkpt = s.ctrl.parkingCkpt ∧
  t.ctrl.accountsLost = s.ctrl.accountsLost ∧ t.ctrl.imageWrite = s.ctrl.imageWrite

/-! ### Invariants -/

/-- The alert list is in order and holds what R134, R135 and R140 allow: at most 24 entries, in list order,
each raised before the next one to come and no two at one place in the order of raising, no two of one code
and subject, no two in service at one priority, fields within their ranges, and none resolved that is not in
service. -/
def Alerts.Sound (a : Alerts) : Prop :=
  a.entries.length ≤ 24 ∧
  a.entries.Pairwise (fun x y => x.before y = true) ∧
  a.entries.Pairwise (fun x y => x.seq ≠ y.seq) ∧
  a.entries.Pairwise (fun x y => ¬(x.code = y.code ∧ x.subject = y.subject)) ∧
  a.entries.Pairwise (fun x y => x.inService = true → y.inService = true → x.priority ≠ y.priority) ∧
  ∀ e ∈ a.entries, e.seq < a.nextSeq ∧ (1 ≤ e.priority ∧ e.priority ≤ 7) ∧ (1 ≤ e.repeats ∧ e.repeats ≤ 255) ∧
    (e.resolved = true → e.inService = true)

/-- A transmit list is in identifier order with no two messages of one kind and destination (R165). -/
def PortRec.Sound (r : PortRec) : Prop :=
  r.list.Pairwise (fun x y => x.kind.identifier x.dest < y.kind.identifier y.dest)

/-- Both transmit lists are in order. -/
def ListsOrdered (s : State) : Prop := s.ports.implement.Sound ∧ s.ports.powertrain.Sound

/-- What the fences, the merger and CAP_SET show in RUN is current (R59, R68, R85, R86, R88, R89), and the
merger is halted outside RUN (R90). -/
def CapsCurrent (s : State) : Prop :=
  s.caps.sending = (s.power == .run) ∧
  (s.power = .run →
    s.env.slots = settleSlots s.judgedSlots ∧
    s.env.crawl = crawlRow s.inForce.limits.crawl s.meas.slew.validAngle.isSome s.planActive ∧
    s.caps.rows = s.ownRows ∧ s.caps.caps = mergeAll s.caps.rows ∧
    s.caps.lastPlaced = some (capSetData s.caps.caps))

/-- No message of a kind for a party waits. -/
def NoneWaits (s : State) (k : TxKind) (p : Party) : Prop :=
  ∀ e ∈ (s.ports.get p.port).list, ¬(e.kind = k ∧ e.dest = p.node)

/-- Outside RUN the merger is halted and none of CAP_SET, STEP_DEMAND, ECON_STATUS and ALERT_OFFER waits
(R90, R114, R142). -/
def SilentOutsideRun (s : State) : Prop :=
  s.power ≠ .run →
    s.caps.sending = false ∧ NoneWaits s .capSet .valve ∧ NoneWaits s .stepDemand .engine ∧
      NoneWaits s .econStatus .cab ∧ NoneWaits s .alertOffer .cab

/-- In RUN the offer placed last is the one the Alert List gives (R142). -/
def OfferCurrent (s : State) : Prop := s.power = .run → s.alerts.lastOffer = some (offerKey s.alerts)

/-- The Economy Unit's copies are those of their owners (R105), no stop is in force outside RUN (R70), and in
RUN the judgement of the step is current (R106, R107, R110, R127). -/
def StepCurrent (s : State) : Prop :=
  s.econ.cycleCopy = s.cycle.state ∧ s.econ.travelCopy = s.meas.press.travelFlag ∧
  s.econ.stopCopy = stopInForce s.env.slots ∧ (s.power ≠ .run → stopInForce s.env.slots = false) ∧
  (s.power = .run →
    s.step.serviceCap = serviceCap s.svc.items ∧ s.step.chosen = s.stepIn.chosen ∧
    s.step.limiting = s.stepIn.limiting ∧ s.step.issued = s.stepIn.issued ∧
    s.step.floorStands = s.stepIn.floorHolds ∧ s.step.lastDemand = some (s.step.issued, s.targetRpm))

/-- In RUN a CAP_SET and a STEP_DEMAND that wait carry the content at hand (R88, R110, R165). -/
def WaitingCurrent (s : State) : Prop :=
  s.power = .run →
    (∀ d, Waits s .capSet .valve d → d = capSetData s.caps.caps) ∧
    (∀ d, Waits s .stepDemand .engine d → d = stepDemandData s.step.issued s.targetRpm)

/-- A power step. -/
def IsStep (n : Nat) : Prop := 1 ≤ n ∧ n ≤ 10

/-- The economy settings are within the ranges and orders of R98. -/
def EconSettings.Sound (e : EconSettings) : Prop :=
  e.steps.length = 10 ∧ stepTableOk e.steps = true ∧ IsStep e.startStep ∧ IsStep e.siteStepCap ∧
  (4 ≤ e.idleDelay ∧ e.idleDelay ≤ 60) ∧ IsStep e.floorStep ∧ IsStep e.fenceStep ∧ IsStep e.capIdle ∧
  IsStep e.capDigging ∧ IsStep e.capLoaded ∧ IsStep e.capDumping ∧ IsStep e.capEmpty ∧ IsStep e.capTravel

/-- Every step of the Economy Unit lies from 1 to 10, and the window within its bounds (R98, R99, R102 to
R106, R122). -/
def StepsBounded (s : State) : Prop :=
  s.inForce.econ.Sound ∧ IsStep s.econ.selection ∧ IsStep s.econ.manualStep ∧ IsStep s.econ.operatorCap ∧
  IsStep s.econ.siteCap ∧ IsStep s.step.serviceCap ∧ IsStep s.step.chosen ∧ IsStep s.step.issued ∧
  s.econ.engine.load ≤ 125 ∧ s.econ.count < 32 ∧ s.econ.sum ≤ 125 * s.econ.count ∧ s.econ.down ≤ 1 ∧
  (∀ i ∈ s.svc.items, ∀ k, i.defn.stepDerate = some k → IsStep k)

/-- The hour meter is the sum of the hundredth-hours of the ten accumulators, held at its bound (R117). -/
def Meters.HoursSum (m : Meters) : Prop :=
  m.acc.length = 10 ∧ m.hour = min Config.maxU32 ((m.acc.map fun a => a.whole).sum)

/-- The hour meter is the sum of the accumulators and the dig cycles mirror the total count, in the part, in
every valid account slot and in the snapshot being written (R117, R121, R131, R132). -/
def AccountsAgree (s : State) : Prop :=
  s.svc.meters.HoursSum ∧ s.svc.meters.digCycles = s.cycle.total ∧
  (s.chip.slotA.valid = true → s.chip.slotA.image.meters.HoursSum) ∧
  (s.chip.slotB.valid = true → s.chip.slotB.image.meters.HoursSum) ∧
  (∀ w, s.ctrl.writing = some w → w.image.meters.HoursSum)

/-- A slot holds what R57 and R75 allow for its number: an EMPTY slot demands nothing; a SITE slot's fence is
at least as tight as its site part and marked tightened when it differs from it; a CAB slot has no site
part. -/
def FenceSlot.Sound (c : FenceSlot) (n : Nat) : Prop :=
  (c.state = .empty ↔ c.fence = none) ∧
  (c.fence = none → c.remaining = none ∧ c.demands = Row.free ∧ c.alert = none) ∧
  ∀ f, c.fence = some f →
    (f.eff.limit = none ↔ f.eff.kind = .sector) ∧
    (if n ≤ 10 then
      ∃ g, f.site = some g ∧ (g.limit = none ↔ g.kind = .sector) ∧ atLeastAsTight f.eff g = true ∧
        f.tightened = decide (f.eff ≠ g)
    else f.site = none ∧ f.tightened = false)

/-- The fence table has sixteen sound slots (R57, R75). -/
def FencesSound (s : State) : Prop :=
  s.env.slots.length = 16 ∧ ∀ n, 1 ≤ n → n ≤ 16 → (slotAt s.env.slots n).Sound n

/-- The values in force and the item definitions are those of the active plan, or the built-in values and no
item under NO_PLAN, and no two items have one number (R21, R58, R98, R122, R130, R157, R160). -/
def PlanInForce (s : State) : Prop :=
  (match s.plan.active with
  | none => s.inForce = builtinInForce ∧ s.svc.items = []
  | some p => ∃ c, planContent p.bytes = some c ∧ s.inForce = c.inForce ∧
      s.svc.items.map (fun i => i.defn) = c.items) ∧
  ItemsDistinct s

/-- The staging area and the transfer state agree (R148, R150, R152, R153): nothing is staged in IDLE and
REQUESTED; in RECEIVING the run written ends at the expected offset, within the declared length, which is
within the region. -/
def TransferSound (p : PlanStore) : Prop :=
  match p.xfer with
  | .idle | .requested => p.staging = Seven.all emptyRegion
  | .opened => True
  | .receiving =>
    (p.staging.get p.receiving).received = false ∧
    (p.staging.get p.receiving).bytes.length = p.expected ∧ p.expected ≤ p.declared ∧
    p.declared ≤ regionSize p.receiving

/-- The pose record, TILT and the guidance record are those that an evaluation of the records at hand would
give (R25, R31, R49, R52). -/
def PoseCurrent (s : State) : Prop :=
  s.pose.record = s.pose.record.evaluate s.inForce.geom s.meas.poseIn ∧ s.pose.tilt = s.meas.poseIn.tilt ∧
  s.grade = s.grade.evaluate s.planActive s.inForce s.pose.record

/-- The charging state is the issued step, the effective running flag and the high-pressure flag (R106,
R116, R120), and outside RUN the pressures and their flags are clear (R18, R19). -/
def ChargingCurrent (s : State) : Prop :=
  s.charge.step = s.step.issued ∧ s.charge.running = s.effectiveRunning ∧
  s.charge.high = s.meas.press.highFlag ∧ (s.power ≠ .run → s.meas.press = coldPress)

end Sys2Proof.Machine
end

