-- ==== Sys2Proof/Certificates/Slice0/Obligations.lean ====
section
/-! DEFINITION. The statements for the provers, by block of the part. Each holds for every state and operands
that meet its hypotheses. -/

section Statements

open Sys2Proof Sys2Proof.Machine

/-! ### The machine -/

/-- A step on a queue that is not empty is the command at its front, run with the rest of the queue. -/
def Obligations.StepTakesFrontCommand : Prop :=
  ∀ (c : Instr) (rest : List Instr) (s : State),
    step { s with pending := c :: rest } = exec c { s with pending := rest }

/-- Every command answers a next state and leaves the queue: its step is whole (spec/95), and none stops
the part, which no rule says and the model infers from the lack of a rule that would stop it (log 26). -/
def Obligations.EveryCommandAnswers : Prop :=
  ∀ (c : Instr) (s : State), ∃ t, exec c s = .next t ∧ t.pending = s.pending

/-- One millisecond on an empty queue (the model's choice, log 1): what runs in each power state, what stands
still, and which commands are then queued: those of the expiries, timers, full accumulators and periods that
fall due, each by its own condition, and no other. -/
def Obligations.IdleMillisecond : Prop :=
  ∀ s : State, s.pending = [] → ∃ t, step s = .next t ∧
    (s.power = .off ∨ s.power = .starting ∨ s.power = .parked → t = s) ∧
    (s.power = .parking → OnlyChanges [.links, .pending] s t ∧
      ∀ p, t.links.get p = { s.links.get p with silence := addSat 65535 (s.links.get p).silence 1 }) ∧
    (s.power = .serviceAwake → OnlyChanges [.links, .plan, .ctrl, .pending] s t ∧
      (∀ p, t.links.get p = if p = .gateway then
        { s.links.get p with silence := addSat 65535 (s.links.get p).silence 1 } else s.links.get p) ∧
      t.ctrl = { s.ctrl with awakeTimer := s.ctrl.awakeTimer - 1 } ∧
      t.plan = { s.plan with
        requestTimer := if s.plan.xfer = .requested then s.plan.requestTimer - 1 else s.plan.requestTimer
        inactTimer := if s.plan.xfer = .opened ∨ s.plan.xfer = .receiving then s.plan.inactTimer - 1
          else s.plan.inactTimer }) ∧
    (s.power = .run → OnlyChanges [.meas, .cycle, .econ, .svc, .caps, .periods, .links, .plan, .pending] s t ∧
      (∀ j, t.meas.joint j = { s.meas.joint j with age := (s.meas.joint j).age + 1 }) ∧
      t.meas.frame = { s.meas.frame with age := s.meas.frame.age + 1 } ∧
      t.meas.slew = { s.meas.slew with age := s.meas.slew.age + 1 } ∧
      t.meas.press = s.meas.press ∧
      t.cycle = { s.cycle with
        age := addSat 4294967295 s.cycle.age 1
        rest := if s.meas.press.implementFlag then s.cycle.rest else addSat 4294967295 s.cycle.rest 1 } ∧
      t.econ = { s.econ with
        engine := { s.econ.engine with age := addSat 65535 s.econ.engine.age 1 }
        idleTimer := if s.meas.press.travelFlag || s.meas.press.implementFlag then s.econ.idleTimer
          else s.econ.idleTimer + 1 } ∧
      t.svc = { s.svc with meters := { s.svc.meters with
        acc := if s.charge.running then
            s.svc.meters.acc.set (s.charge.step - 1)
              { whole := (s.svc.meters.acc.getD (s.charge.step - 1) { whole := 0, rem := 0 }).whole
                rem := (s.svc.meters.acc.getD (s.charge.step - 1) { whole := 0, rem := 0 }).rem + 1 }
          else s.svc.meters.acc
        highRem := if s.charge.high then s.svc.meters.highRem + 1 else s.svc.meters.highRem } } ∧
      t.caps = { s.caps with
        echoTimer := if s.caps.check = .disagreeing then s.caps.echoTimer - 1 else s.caps.echoTimer } ∧
      t.periods = { grade := s.periods.grade + 1, envelope := s.periods.envelope + 1,
                    capSet := s.periods.capSet + 1, step := s.periods.step + 1, econ := s.periods.econ + 1 } ∧
      (∀ p, t.links.get p = { s.links.get p with silence := addSat 65535 (s.links.get p).silence 1 }) ∧
      t.plan = { s.plan with
        requestTimer := if s.plan.xfer = .requested then s.plan.requestTimer - 1 else s.plan.requestTimer
        inactTimer := if s.plan.xfer = .opened ∨ s.plan.xfer = .receiving then s.plan.inactTimer - 1
          else s.plan.inactTimer }) ∧
    ∀ c : Instr, c ∈ t.pending ↔ FallsDue t c

/-- The power state moves only as R171 to R178 give: each move with the command that makes it, from the state
it leaves to the state it enters. -/
def Obligations.PowerStateMoves : Prop :=
  ∀ (c : Instr) (s t : State), exec c s = .next t → t.power ≠ s.power →
    match c with
    | .keyOn => (s.power = .parking ∨ s.power = .parked ∨ s.power = .serviceAwake) ∧ t.power = .run
    | .keyOff => s.power = .run ∧ t.power = .parking
    | .powerLoss _ => t.power = .off
    | .coldStart => s.power = .off ∧ t.power = .starting
    | .startingReadComplete => s.power = .starting ∧ t.power = if s.pins.keyOn then .run else .parked
    | .wake _ => s.power = .parked ∧ t.power = .serviceAwake
    | .sleep _ => s.power = .serviceAwake ∧ t.power = .parked
    | .serviceAwakeTimerExpiry => s.power = .serviceAwake ∧ t.power = .parked
    | .checkpointReport _ => s.power = .parking ∧ t.power = .parked
    | .planImageWriteReport _ => s.power = .parking ∧ t.power = .parked
    | .enterParked => s.power = .parking ∧ t.power = .parked
    | _ => False

/-- A frame's identifier and its command agree in both directions (R161, R162): the fields of an identifier
are those of its frame, and every identifier is that of the frame it gives. That the command of a frame is its
kind's where the frame reaches it and FRAME_NOT_FOR_PART otherwise is the model's choice (log 27). -/
def Obligations.IdentifierRoundTrip : Prop :=
  (∀ (k : RxKind) (f : Frame),
    frameOf f.port (frameIdentifier k.number f) f.data = f ∧
    identifierKind (frameIdentifier k.number f) = k.number ∧
    decodeFrame f.port (frameIdentifier k.number f) f.data =
      if k.reaches f then k.toInstr f else .frameNotForPart k.number f) ∧
  (∀ (p : Port) (ident : BitVec 29) (data : List Byte),
    frameIdentifier (identifierKind ident) (frameOf p ident data) = ident) ∧
  (∀ (n : BitVec 10) (f : Frame), (∀ k : RxKind, k.number ≠ n) →
    decodeFrame f.port (frameIdentifier n f) f.data = .frameNotForPart n f)

/-- The state at reset: OFF with an empty queue, and with every invariant of the statements below. The lines,
and a store chip that holds no valid slot and no plan image, are the model's choice (logs 2 and 3). -/
def Obligations.ResetState : Prop :=
  State.reset.power = .off ∧ State.reset.pending = [] ∧ State.reset.chip.slotA.valid = false ∧
  State.reset.chip.slotB.valid = false ∧ State.reset.chip.image = none ∧
  State.reset.alerts.Sound ∧ ListsOrdered State.reset ∧ SilentOutsideRun State.reset ∧
  OfferCurrent State.reset ∧
  CapsCurrent State.reset ∧ StepCurrent State.reset ∧ StepsBounded State.reset ∧ AccountsAgree State.reset ∧
  FencesSound State.reset ∧ PlanInForce State.reset ∧ TransferSound State.reset.plan ∧
  PoseCurrent State.reset ∧ ChargingCurrent State.reset

/-! ### Invariants that every step keeps -/

/-- Every step keeps the Alert List in order and within its bounds (R134 to R143). -/
def Obligations.AlertListStaysSound : Prop :=
  ∀ s : State, s.alerts.Sound → ∀ t, step s = .next t → t.alerts.Sound

/-- Every step keeps both transmit lists in identifier order without a repeat, in RUN the offer placed last
the one that the Alert List gives, and outside RUN the merger halted and CAP_SET, STEP_DEMAND, ECON_STATUS and
ALERT_OFFER off the lists (R90, R114, R142, R165). -/
def Obligations.TransmitListsStaySound : Prop :=
  ∀ s : State, ListsOrdered s ∧ SilentOutsideRun s ∧ OfferCurrent s →
    ∀ t, step s = .next t → ListsOrdered t ∧ SilentOutsideRun t ∧ OfferCurrent t

/-- In RUN every step leaves the fence table as an evaluation of the pose and the slew gives it, the merger
with the rows of their owners merged, and the content of CAP_SET placed; outside RUN the merger is halted
(R59, R68, R85, R88 to R90). -/
def Obligations.CapsStayCurrent : Prop :=
  ∀ s : State, CapsCurrent s → ∀ t, step s = .next t → CapsCurrent t

/-- In RUN every step leaves the chosen and issued steps, the floor condition and the STEP_DEMAND placed as a
judgement of the caps and the selection gives them, and the copies of the neighbours' states as their owners
hold them (R105 to R107, R110, R127). -/
def Obligations.StepStaysCurrent : Prop :=
  ∀ s : State, StepCurrent s → ∀ t, step s = .next t → StepCurrent t

/-- Every step keeps every power step of the Economy Unit from 1 to 10, its settings in their ranges, and its
window within its bounds (R98, R99, R102 to R106). -/
def Obligations.StepsStayBounded : Prop :=
  ∀ s : State, StepsBounded s → ∀ t, step s = .next t → StepsBounded t

/-- Every step keeps the hour meter equal to the sum of the ten accumulators' hundredth-hours, in the part and
in every account image that can be restored, and the dig-cycle meter equal to the total count of cycles (R117,
R121, R131). -/
def Obligations.AccountsStayInAgreement : Prop :=
  ∀ s : State, AccountsAgree s → ∀ t, step s = .next t → AccountsAgree t

/-- Every step keeps the sixteen fence slots sound: an EMPTY slot demands nothing, a SITE slot's effective
fence is at least as tight as its site part and marked tightened when it differs, a CAB slot has no site part
(R57, R75). -/
def Obligations.FenceTableStaysSound : Prop :=
  ∀ s : State, FencesSound s → ∀ t, step s = .next t → FencesSound t

/-- Every step keeps the values in force and the item definitions those of the active plan, or the built-in
values and no item under NO_PLAN, the item numbers distinct, and the staging area as the transfer state calls
for (R122, R130, R148, R150, R153, R157, R160). That a discarded region holds no bytes and the checksum 0 is
the model's choice (log 18). -/
def Obligations.PlanStoreStaysSound : Prop :=
  ∀ s : State, PlanInForce s ∧ TransferSound s.plan →
    ∀ t, step s = .next t → PlanInForce t ∧ TransferSound t.plan

/-- Every step keeps the pose record, TILT, the guidance record and the guard as an evaluation of the records
at hand gives them, and the charging state as the issued step, the effective running flag and the
high-pressure flag give it (R25, R31, R49, R52, R106, R120). That TILT ends at the entry to PARKING, where no
evaluation finds the frame INVALID, is the model's choice (log 20). -/
def Obligations.RecordsStayCurrent : Prop :=
  ∀ s : State, PoseCurrent s ∧ ChargingCurrent s →
    ∀ t, step s = .next t → PoseCurrent t ∧ ChargingCurrent t

/-! ### Arithmetic -/

/-- The manual's integer square root and rounding (spec/00, Conventions): the root is the greatest whole
number whose square does not exceed its argument; a rounded quotient lies within a half of the exact one, and
an exact half is rounded away from zero. -/
def Obligations.RootsAndRounding : Prop :=
  (∀ n : Nat, isqrt n * isqrt n ≤ n ∧ n < (isqrt n + 1) * (isqrt n + 1)) ∧
  (∀ (a : Int) (b : Nat), 0 < b →
    2 * (b * roundDiv a b - a).natAbs ≤ b ∧
    (2 * (b * roundDiv a b - a).natAbs = b → a.natAbs < b * (roundDiv a b).natAbs))

/-- R149 in full: the checksum starts at 0, and each byte is added modulo 65536 to the sum rotated left by
three bits within 16, so that the three highest bits move to the three lowest places and every other bit moves
up three places. -/
def Obligations.ChecksumRule : Prop :=
  checksum [] = 0 ∧
  ∀ (bytes : List Byte) (b : Byte),
    (checksum (bytes ++ [b])).toNat =
      ((checksum bytes).toNat % 8192 * 8 + (checksum bytes).toNat / 8192 + b.toNat) % 65536

/-- R23 in full: the sine of any angle by its quadrant from the first-quadrant sine T, the cosine from the
sine, both whole numbers from -16384 to 16384, agreeing at the quadrant boundaries. Of T, what R22 lists and
derives: the listed entries of the sine table, the interpolation between two entries, the table increasing with
its degree and T with its angle. -/
def Obligations.SineQuadrants : Prop :=
  (∀ p ∈ ([(0, 0), (1, 286), (2, 572), (10, 2845), (20, 5604), (29, 7943), (30, 8192), (31, 8438), (38, 10087),
      (39, 10311), (40, 10531), (45, 11585), (60, 14189), (70, 15396), (80, 16135), (88, 16374), (89, 16382),
      (90, 16384)] : List (Nat × Int)), quadrantSine (100 * p.1) = p.2) ∧
  (∀ d : Nat, d < 90 → quadrantSine (100 * d) < quadrantSine (100 * (d + 1)) ∧
    ∀ f : Nat, f < 100 → quadrantSine (100 * d + f) = quadrantSine (100 * d) +
      roundDiv ((quadrantSine (100 * (d + 1)) - quadrantSine (100 * d)) * f) 100) ∧
  (∀ a b : Nat, a ≤ b → b ≤ 9000 → quadrantSine a ≤ quadrantSine b) ∧
  ∀ a : Int,
    (a % 36000 ≤ 9000 → sine a = quadrantSine (a % 36000).toNat) ∧
    (9001 ≤ a % 36000 ∧ a % 36000 ≤ 18000 → sine a = quadrantSine (18000 - a % 36000).toNat) ∧
    (18001 ≤ a % 36000 ∧ a % 36000 ≤ 27000 → sine a = -quadrantSine (a % 36000 - 18000).toNat) ∧
    (27001 ≤ a % 36000 → sine a = -quadrantSine (36000 - a % 36000).toNat) ∧
    cosine a = sine (9000 - a) ∧
    -16384 ≤ sine a ∧ sine a ≤ 16384 ∧ -16384 ≤ cosine a ∧ cosine a ≤ 16384 ∧
    (a % 36000 = 18000 → sine a = 0) ∧ (a % 36000 = 27000 → sine a = -16384)

/-! ### Measurement Unit -/

/-- R3 in full: the vote of three USED channels, whatever order they report a ≤ b ≤ c in; `Int.fdiv` is the
floor toward minus infinity. The joint tolerance Tj is 150 cd. -/
def Obligations.VoteOfThree : Prop :=
  ∀ (a b c : Int) (c1 c2 c3 : Channel), a ≤ b → b ≤ c →
    c1.use = .used → c2.use = .used → c3.use = .used →
    [c1.reading, c2.reading, c3.reading].Perm [a, b, c] →
    vote [c1, c2, c3] =
      if c - a ≤ 150 then (some b, .good)
      else if b - a ≤ 150 ∧ c - b ≤ 150 then (some b, .two)
      else if b - a ≤ 150 then (some (Int.fdiv (a + b) 2), .two)
      else if c - b ≤ 150 then (some (Int.fdiv (b + c) 2), .two)
      else (none, .invalid)

/-- JOINT_SAMPLE and FRAME_SAMPLE taken in RUN (R1, R2, R4, R6, R7). A channel is stored as it came, and is
LEFT_OUT when its status is FAULT or its reading is out of range, else USED. Two USED channels vote their
mean when they differ by at most the tolerance of 150 cd, and fewer vote INVALID. A joint's channels are
stored and voted: a vote with a value replaces the voted value, one without leaves it. A JOINT_SAMPLE that
names no joint changes no record. A FRAME_SAMPLE within range is accepted, and one out of range makes the
frame INVALID. The Cycle Monitor and the accounts follow (R36, R121), pose, guidance and fences are
evaluated where what they read changed (R25, R49, R59), and the alerts follow (R6, R7, R31, R53, R71, R72,
R126). Benchmark, guard switch and fence contents stand, and of the Economy Unit all but the copies of its
neighbours' states. That items gain on while their meter is held at its bound is the model's choice (log
29). -/
def Obligations.JointAndFrameSamples : Prop :=
  (∀ c : ChannelIn, (storeChannel c).reading = c.reading ∧ (storeChannel c).status = c.status ∧
    (storeChannel c).use =
      (if c.status = .fault ∨ c.reading < -18000 ∨ 17999 < c.reading then .leftOut else .used)) ∧
  (∀ (l : List Channel) (used : List Int),
    used = (l.filter fun c => decide (c.use = .used)).map (fun c => c.reading) →
    (∀ x y : Int, used = [x, y] →
      vote l = if (x - y).natAbs ≤ 150 then (some (Int.fdiv (x + y) 2), .two) else (none, .invalid)) ∧
    (used.length ≤ 1 → vote l = (none, .invalid))) ∧
  ∀ (s : State) (f : Frame), s.power = .run →
    (Delivered s .jointSample f .sensor →
      (∀ (j : Joint) (l : List Channel), jointOf (u8 f.data 0) = some j →
        l = [storeChannel { reading := s16 f.data 1, status := statusOf (u8 f.data 7 % 4) },
             storeChannel { reading := s16 f.data 3, status := statusOf (u8 f.data 7 / 4 % 4) },
             storeChannel { reading := s16 f.data 5, status := statusOf (u8 f.data 7 / 16 % 4) }] →
        ∃ t, exec (.jointSample f) s = .next t ∧ t.links = heardLinks s .sensor ∧
          (∀ k, k ≠ j → t.meas.joint k = s.meas.joint k) ∧ t.meas.frame = s.meas.frame ∧
          t.meas.slew = s.meas.slew ∧ t.meas.press = s.meas.press ∧
          [(t.meas.joint j).ch1, (t.meas.joint j).ch2, (t.meas.joint j).ch3] = l ∧
          (t.meas.joint j).voted = (vote l).1.getD (s.meas.joint j).voted ∧
          (t.meas.joint j).lastVote = (vote l).2 ∧
          (t.meas.joint j).quality =
            (match (vote l).2 with | .good => .good | .two => .two | .invalid => .invalid) ∧
          (t.meas.joint j).age = 0 ∧ (t.meas.joint j).invalidStands = decide ((vote l).2 = .invalid) ∧
          CycleCounts s.cycle false s t ∧ RecordsFollow s t ∧ (ItemsDistinct s → AlertsFollow handOnCodes s t) ∧
          Keeps (.meas :: .links :: handOnBlocks) [] (linkCodes ++ handOnCodes) s t) ∧
      (jointOf (u8 f.data 0) = none →
        ∃ t, exec (.jointSample f) s = .next t ∧ t.links = heardLinks s .sensor ∧
          Keeps [.links] [] linkCodes s t)) ∧
    (Delivered s .frameSample f .sensor →
      ∃ t, exec (.frameSample f) s = .next t ∧ t.links = heardLinks s .sensor ∧
        t.meas = { s.meas with frame :=
          if (-18000 ≤ s16 f.data 0 ∧ s16 f.data 0 ≤ 17999) ∧ (-18000 ≤ s16 f.data 2 ∧ s16 f.data 2 ≤ 17999) then
            { pitch := s16 f.data 0, roll := s16 f.data 2, quality := .good, last := .accepted, age := 0,
              invalidStands := false }
          else { s.meas.frame with quality := .invalid, last := .rejected, age := 0, invalidStands := true } } ∧
        CycleCounts s.cycle false s t ∧ RecordsFollow s t ∧ (ItemsDistinct s → AlertsFollow handOnCodes s t) ∧
        Keeps (.meas :: .links :: handOnBlocks) [] (linkCodes ++ handOnCodes) s t)

/-- SLEW_SAMPLE taken in RUN (R10 to R13, R15, R16, R121). A FAULT sample unindexes the slew and raises
SLEW_ENCODER_FAULT, each time; an OK sample sets raw count, speed and direction, counts a reversal of the
last moving direction into the session reversals and the reversal meter, and recomputes a valid angle.
Without the index-seen flag the index, Nrev and the index state stand, and the first pass is discarded by a
reversal alone. With it the record after the reversal test makes an index pass (the statement IndexPass) at
the latched count, with the nominal Nrev in force and the fence states as they stood before the sample; a
rejected candidate raises SLEW_CAL_FAILED. A reversal counts on its meter and items, the Cycle Monitor
follows (R36), pose, guidance and fences are evaluated where what they read changed (R25, R49, R59), and
the alerts follow (R10, R31, R53, R71, R72, R126). Benchmark, guard switch and fence contents stand, and of
the Economy Unit all but the copies of its neighbours' states. That items gain on while their meter is held
at its bound is the model's choice (log 29). -/
def Obligations.SlewSample : Prop :=
  ∀ (s : State) (f : Frame), s.power = .run → Delivered s .slewSample f .sensor →
    (u8 f.data 6 / 2 % 4 ≠ 0 →
      ∃ t, exec (.slewSample f) s = .next t ∧ t.links = heardLinks s .sensor ∧
        t.meas = { s.meas with slew := { s.meas.slew with
          encoder := .fault, state := .unindexed, speed := 0, dir := .still, firstPass := none, age := 0 } } ∧
        RaisedAmong s t .slewEncoderFault .none ∧
        CycleCounts s.cycle false s t ∧ RecordsFollow s t ∧ (ItemsDistinct s → AlertsFollow handOnCodes s t) ∧
        Keeps (.meas :: .links :: handOnBlocks) [] (linkCodes ++ handOnCodes) s t) ∧
    (u8 f.data 6 / 2 % 4 = 0 → ∀ (speed : Int) (dir : SlewDir) (reversal : Bool),
      speed = roundDiv (s16 f.data 2 * 36000) s.meas.slew.nrev →
      dir = (if 200 ≤ speed then .left else if speed ≤ -200 then .right else .still) →
      reversal = ((dir == .left && s.meas.slew.lastMoving == .right) ||
        (dir == .right && s.meas.slew.lastMoving == .left)) →
      ∃ t, exec (.slewSample f) s = .next t ∧ t.links = heardLinks s .sensor ∧
        t.meas.boom = s.meas.boom ∧ t.meas.stick = s.meas.stick ∧ t.meas.bucket = s.meas.bucket ∧
        t.meas.frame = s.meas.frame ∧ t.meas.press = s.meas.press ∧
        t.meas.slew.encoder = .ok ∧ t.meas.slew.raw = u16 f.data 0 ∧ t.meas.slew.age = 0 ∧
        t.meas.slew.speed = speed ∧ t.meas.slew.dir = dir ∧
        t.meas.slew.lastMoving =
          (match dir with | .still => s.meas.slew.lastMoving | .left => .left | .right => .right) ∧
        t.meas.slew.reversals =
          (if reversal then addSat 65535 s.meas.slew.reversals 1 else s.meas.slew.reversals) ∧
        CycleCounts s.cycle reversal s t ∧ RecordsFollow s t ∧ (ItemsDistinct s → AlertsFollow handOnCodes s t) ∧
        (t.meas.slew.state ≠ .unindexed →
          t.meas.slew.angle = (((t.meas.slew.raw : Int) - t.meas.slew.index) % 65536).toNat % t.meas.slew.nrev *
            36000 / t.meas.slew.nrev) ∧
        (bitAt f.data 6 0 = false →
          t.meas.slew.index = s.meas.slew.index ∧ t.meas.slew.nrev = s.meas.slew.nrev ∧
          t.meas.slew.state = s.meas.slew.state ∧ t.meas.slew.measured = s.meas.slew.measured ∧
          t.meas.slew.firstPass = if reversal then none else s.meas.slew.firstPass) ∧
        (bitAt f.data 6 0 = true → ∀ (r : SlewRec) (near : Bool) (x : SlewRec × Bool),
          r = { s.meas.slew with
            encoder := .ok, raw := u16 f.data 0, age := 0, speed := speed, dir := dir
            lastMoving := (match dir with | .still => s.meas.slew.lastMoving | .left => .left | .right => .right)
            reversals := (if reversal then addSat 65535 s.meas.slew.reversals 1 else s.meas.slew.reversals)
            firstPass := if reversal then none else s.meas.slew.firstPass } →
          (near = true ↔ ∃ c ∈ s.env.slots, ∃ g, c.fence.map (fun h => h.eff) = some g ∧
            (g.kind = .sector ∨ turn g.start g.stop ≠ 0) ∧
            (c.state = .approach ∨ c.state = .held ∨ c.state = .breached)) →
          x = r.indexPass (u16 f.data 4) s.inForce.limits.nominalNrev near →
          t.meas.slew = { x.1 with angle := t.meas.slew.angle } ∧
          (x.2 = true → RaisedAmong s t .slewCalFailed .none)) ∧
        Keeps (.meas :: .links :: handOnBlocks) [] (linkCodes ++ handOnCodes) s t)

/-- An index pass (R12, R14 to R16): the latched count becomes the index; an UNINDEXED slew becomes INDEXED,
or CALIBRATED when Nrev was measured this session; the pass becomes the first pass in the last moving
direction. A second pass in the same direction forms a candidate, which is discarded while a sector-acting
fence is near, accepted within a fiftieth of the nominal, and otherwise rejected, which raises SLEW_CAL_FAILED:
the pair's second part. -/
def Obligations.IndexPass : Prop :=
  ∀ (r : SlewRec) (latched nominal : Nat) (near : Bool) (t : SlewRec × Bool),
    t = r.indexPass latched nominal near →
    t.1.index = latched ∧
    t.1.firstPass = (match r.lastMoving with
      | .none => none | .left => some (latched, .left) | .right => some (latched, .right)) ∧
    t.1.raw = r.raw ∧ t.1.speed = r.speed ∧ t.1.dir = r.dir ∧ t.1.lastMoving = r.lastMoving ∧
    t.1.encoder = r.encoder ∧ t.1.reversals = r.reversals ∧ t.1.age = r.age ∧ t.1.angle = r.angle ∧
    (∀ moved : IndexState,
      moved = (if r.state = .unindexed then (if r.measured then .calibrated else .indexed) else r.state) →
      ((r.lastMoving = .none ∨ r.firstPass = none ∨ (∃ c, r.firstPass = some (c, .left) ∧ r.lastMoving = .right) ∨
          (∃ c, r.firstPass = some (c, .right) ∧ r.lastMoving = .left) ∨ near = true) →
        t.1.nrev = r.nrev ∧ t.1.measured = r.measured ∧ t.1.state = moved ∧ t.2 = false) ∧
      (∀ (c : Nat) (n : Int), near = false →
        ((r.firstPass = some (c, .left) ∧ r.lastMoving = .left ∧ n = ((latched : Int) - c) % 65536) ∨
          (r.firstPass = some (c, .right) ∧ r.lastMoving = .right ∧ n = ((c : Int) - latched) % 65536)) →
        ((n - nominal).natAbs ≤ nominal / 50 →
          (t.1.nrev : Int) = n ∧ t.1.measured = true ∧ t.1.state = .calibrated ∧ t.2 = false) ∧
        (nominal / 50 < (n - nominal).natAbs →
          t.1.nrev = r.nrev ∧ t.1.measured = r.measured ∧ t.1.state = moved ∧ t.2 = true)))

/-- PRESSURE_SAMPLE taken in RUN (R8, R9, R34, R44, R78): pressures bounded at 700 bar, flags from the new
values, the rest time returned to 0 under a set implement pilot flag. Setting a clear travel pilot flag is
a travel start: a CURRENT benchmark becomes STALE, the guidance is evaluated and every verified flag is
cleared. Otherwise guidance and fences stand, as the pose does. A change of the pilot flags goes to the
Economy Unit (R105, R108, R109): with one set its idle timer returns to 0, and IDLING becomes ACTIVE with
the window discarded; selection, manual step, mode, average and caps stand. The Cycle Monitor follows (R36,
R121), and so do the alerts (R53, R78, R126). That items gain on while their meter is held at its bound is
the model's choice (log 29). -/
def Obligations.PressureSample : Prop :=
  ∀ (s : State) (f : Frame) (pump travel implement : Nat), s.power = .run → Delivered s .pressureSample f .sensor →
    pump = min 700 (u16 f.data 0) → travel = min 700 (u16 f.data 2) → implement = min 700 (u16 f.data 4) →
    ∃ t, exec (.pressureSample f) s = .next t ∧ t.links = heardLinks s .sensor ∧
      t.meas = { s.meas with press :=
        { pump := pump, travel := travel, implement := implement, travelFlag := decide (10 ≤ travel),
          implementFlag := decide (10 ≤ implement),
          highFlag := decide (s.inForce.limits.highPressure ≤ pump) } } ∧
      t.cycle.rest = (if 10 ≤ implement then 0 else s.cycle.rest) ∧
      t.pose = s.pose ∧
      t.grade = (if 10 ≤ travel ∧ s.meas.press.travelFlag = false ∧ s.grade.bench.state = .current then
        { s.grade with bench := { s.grade.bench with state := .stale } }.evaluate s.planActive s.inForce
          s.pose.record else s.grade) ∧
      t.grade.bench = (if 10 ≤ travel ∧ s.meas.press.travelFlag = false ∧ s.grade.bench.state = .current then
        { s.grade.bench with state := .stale } else s.grade.bench) ∧
      t.grade.guardOn = s.grade.guardOn ∧
      t.env = (if 10 ≤ travel ∧ s.meas.press.travelFlag = false then
          { s.env with slots := s.env.slots.map fun c =>
            { c with fence := c.fence.map fun x => { x with verified := false } } }
        else s.env) ∧
      t.econ = (if s.meas.press.travelFlag = decide (10 ≤ travel) ∧
            s.meas.press.implementFlag = decide (10 ≤ implement) then
          { s.econ with cycleCopy := t.econ.cycleCopy }
        else if travel < 10 ∧ implement < 10 then
          { s.econ with cycleCopy := t.econ.cycleCopy, travelCopy := false }
        else if s.econ.idle = .active then
          { s.econ with cycleCopy := t.econ.cycleCopy, travelCopy := decide (10 ≤ travel), idleTimer := 0 }
        else
          { s.econ with cycleCopy := t.econ.cycleCopy, travelCopy := decide (10 ≤ travel), idleTimer := 0,
                        idle := .active, count := 0, sum := 0, down := 0 }) ∧
      CycleCounts (if 10 ≤ implement then { s.cycle with rest := 0 } else s.cycle) false s t ∧
      (ItemsDistinct s → AlertsFollow handOnCodes s t) ∧
      Keeps (.meas :: .links :: handOnBlocks) [] (linkCodes ++ handOnCodes) s t

/-- The expiries of the measurement records and of the abandon time in RUN (R5, R7, R13, R35, R36): at 60
ms a GOOD or TWO joint and a GOOD frame become HELD, at 250 ms a HELD one becomes INVALID and an INVALID
one stays so, its values kept in each case; at 250 ms the slew is unindexed; at the abandon time the Cycle
Monitor stands in IDLE, its counts kept. The Cycle Monitor follows each change of the records (R36, R121),
pose, guidance and fences are evaluated where what they read changed (R25, R49, R59), and the alerts follow
(R6, R7, R31, R53, R71, R72, R126). Benchmark, guard switch and fence contents stand, and of the Economy
Unit all but the copies of its neighbours' states. That items gain on while their meter is held at its
bound is the model's choice (log 29). -/
def Obligations.RecordExpiries : Prop :=
  ∀ s : State, s.power = .run →
    (∀ j, 60 ≤ (s.meas.joint j).age → ((s.meas.joint j).quality = .good ∨ (s.meas.joint j).quality = .two) →
      ∃ t, exec (.jointHeldExpiry j) s = .next t ∧
        t.meas = s.meas.setJoint j { s.meas.joint j with quality := .held } ∧
        CycleCounts s.cycle false s t ∧ RecordsFollow s t ∧ (ItemsDistinct s → AlertsFollow handOnCodes s t) ∧
        Keeps (.meas :: handOnBlocks) [] handOnCodes s t) ∧
    (∀ j, 250 ≤ (s.meas.joint j).age → ((s.meas.joint j).quality = .held ∨ (s.meas.joint j).quality = .invalid) →
      ∃ t, exec (.jointInvalidExpiry j) s = .next t ∧
        t.meas = s.meas.setJoint j { s.meas.joint j with quality := .invalid, invalidStands := true } ∧
        CycleCounts s.cycle false s t ∧ RecordsFollow s t ∧ (ItemsDistinct s → AlertsFollow handOnCodes s t) ∧
        Keeps (.meas :: handOnBlocks) [] handOnCodes s t) ∧
    (60 ≤ s.meas.frame.age → s.meas.frame.quality = .good →
      ∃ t, exec .frameHeldExpiry s = .next t ∧
        t.meas = { s.meas with frame := { s.meas.frame with quality := .held } } ∧
        CycleCounts s.cycle false s t ∧ RecordsFollow s t ∧ (ItemsDistinct s → AlertsFollow handOnCodes s t) ∧
        Keeps (.meas :: handOnBlocks) [] handOnCodes s t) ∧
    (250 ≤ s.meas.frame.age → (s.meas.frame.quality = .held ∨ s.meas.frame.quality = .invalid) →
      ∃ t, exec .frameInvalidExpiry s = .next t ∧
        t.meas = { s.meas with frame := { s.meas.frame with quality := .invalid, invalidStands := true } } ∧
        CycleCounts s.cycle false s t ∧ RecordsFollow s t ∧ (ItemsDistinct s → AlertsFollow handOnCodes s t) ∧
        Keeps (.meas :: handOnBlocks) [] handOnCodes s t) ∧
    (250 ≤ s.meas.slew.age →
      ∃ t, exec .slewExpiry s = .next t ∧
        t.meas = { s.meas with slew := { s.meas.slew with
          state := .unindexed, speed := 0, dir := .still, firstPass := none } } ∧
        CycleCounts s.cycle false s t ∧ RecordsFollow s t ∧ (ItemsDistinct s → AlertsFollow handOnCodes s t) ∧
        Keeps (.meas :: handOnBlocks) [] handOnCodes s t) ∧
    (s.inForce.limits.abandonTime * 1000 ≤ s.cycle.rest →
      ∃ t, exec .abandonTimeExpiry s = .next t ∧
        t.cycle = (if s.cycle.state = .idle then s.cycle else { s.cycle with state := .idle, age := 0 }) ∧
        t.econ = (if s.cycle.state = .idle then s.econ else { s.econ with cycleCopy := .idle }) ∧
        t.svc.meters = s.svc.meters ∧
        t.svc.held = s.svc.held ∧ ItemsGain (fun _ => 0) s t ∧ Keeps [.cycle, .econ, .svc] [] itemCodes s t)

/-- Outside RUN a sample or a report changes no record: only its sender's link is heard, and its link alert
withdrawn (R1, R19, R90, R93, R96, R167). The echo record, the steps and the charging state stand, since the
effective running flag is clear outside RUN (R97); with the merger halted, as it is outside RUN
(TransmitListsStaySound), the caps, the lists and the periods stand too. -/
def Obligations.SamplesDiscardedOutsideRun : Prop :=
  ∀ (s : State) (f : Frame) (k : RxKind) (p : Party), s.power ≠ .run → k.isRequest = false → Delivered s k f p →
    ∃ t, exec (k.toInstr f) s = .next t ∧ t.links = heardLinks s p ∧ t.alerts = heardAlerts s p ∧
      EchoKept s t ∧ t.step = s.step ∧ t.charge = s.charge ∧
      (s.caps.sending = false → OnlyChanges [.links, .alerts] s t) ∧
      Keeps [.links] [] linkCodes s t

/-! ### Pose Unit and Cycle Monitor -/

/-- An evaluation of the pose (R25 to R30): with no joint and not the frame INVALID, each stored position is
the exact one bounded to the reported range, computed term by term, SATURATED is set exactly when one of them
was limited, each degrade reason stands exactly when its condition holds, and the quality is GOOD exactly when
none does; with one INVALID the pose is INVALID and the positions stand. That the slew copy is then taken and
the plan coordinates are absent, that the copy of an invalid slew carries no angle, and that a limited plan
coordinate alone sets SATURATED and degrades the pose, are the model's choices (log 12). -/
def Obligations.PoseEvaluation : Prop :=
  ∀ (r : PoseRec) (g : Geometry) (i : PoseIn) (sat : Int → Int), (∀ a, sat a = max (-32768) (min 32767 a)) →
    ∀ rf zf rs zs rk zk rt zt : Int,
      rf = term g.a0 (cosine i.pitch) - term g.h0 (sine i.pitch) →
      zf = term g.a0 (sine i.pitch) + term g.h0 (cosine i.pitch) →
      rs = rf + term g.l1 (cosine i.boom) → zs = zf + term g.l1 (sine i.boom) →
      rk = rs + term g.l2 (cosine i.stick) → zk = zs + term g.l2 (sine i.stick) →
      rt = rk + term g.l3 (cosine i.bucket) → zt = zk + term g.l3 (sine i.bucket) →
      (i.boomQ ≠ .invalid ∧ i.stickQ ≠ .invalid ∧ i.bucketQ ≠ .invalid ∧ i.frameQ ≠ .invalid →
        (r.evaluate g i).rf = sat rf ∧ (r.evaluate g i).zf = sat zf ∧ (r.evaluate g i).rs = sat rs ∧
        (r.evaluate g i).zs = sat zs ∧ (r.evaluate g i).rk = sat rk ∧ (r.evaluate g i).zk = sat zk ∧
        (r.evaluate g i).rt = sat rt ∧ (r.evaluate g i).zt = sat zt ∧
        (r.evaluate g i).htop = sat (max (max (zs + g.t) (zk + g.t)) zt) ∧
        (r.evaluate g i).rmax = sat (max (max rs rk) rt) ∧ (r.evaluate g i).lowest = sat zt ∧
        (r.evaluate g i).bucketAngle = i.bucket ∧ (r.evaluate g i).slew = i.slew ∧
        (∀ a, i.slew = some a →
          (r.evaluate g i).plan = some (sat (term rt (cosine a)), sat (term rt (sine a)))) ∧
        (i.slew = none → (r.evaluate g i).plan = none) ∧
        (r.evaluate g i).quality ≠ .invalid ∧
        ((r.evaluate g i).saturated = true ↔
          (∃ v ∈ [rf, zf, rs, zs, rk, zk, rt, zt, max (max (zs + g.t) (zk + g.t)) zt, max (max rs rk) rt],
            sat v ≠ v) ∨
          ∃ a, i.slew = some a ∧ (sat (term rt (cosine a)) ≠ term rt (cosine a) ∨
            sat (term rt (sine a)) ≠ term rt (sine a))) ∧
        (r.evaluate g i).reasons =
          { jointTwo := decide (i.boomQ = .two ∨ i.stickQ = .two ∨ i.bucketQ = .two)
            jointHeld := decide (i.boomQ = .held ∨ i.stickQ = .held ∨ i.bucketQ = .held)
            frameHeld := decide (i.frameQ = .held), tilt := decide (1000 < i.roll.natAbs)
            saturated := (r.evaluate g i).saturated } ∧
        ((r.evaluate g i).quality = .good ↔
          (∀ q, (q = i.boomQ ∨ q = i.stickQ ∨ q = i.bucketQ) → q = .good) ∧ i.frameQ = .good ∧
          i.roll.natAbs ≤ 1000 ∧ (r.evaluate g i).saturated = false)) ∧
      (i.boomQ = .invalid ∨ i.stickQ = .invalid ∨ i.bucketQ = .invalid ∨ i.frameQ = .invalid →
        r.evaluate g i = { r with slew := i.slew, plan := none, saturated := false, quality := .invalid,
                                  reasons := { jointTwo := false, jointHeld := false, frameHeld := false,
                                               tilt := false, saturated := false } })

/-- An evaluation of the work cycle (R35 to R38): under the abandon condition the state becomes IDLE and no
count changes; otherwise the monitor follows the moves of R37 to a state that none leaves, its age returns to
0 when it moved, and both counts gain one exactly when a move completed a cycle, which an evaluation does at
most once. That a chain which comes to SWING_EMPTY goes on to DIGGING, and completes a cycle there, is the
model's choice (log 30). -/
def Obligations.CycleEvaluation : Prop :=
  ∀ (c : Cycle) (i : CycleIn) (t : Cycle × Bool), t = c.evaluate i →
    (i.limits.abandonTime * 1000 ≤ c.rest ∨ i.travel = true ∨ i.pose.quality = .invalid →
      t.1 = (if c.state = .idle then c else { c with state := .idle, age := 0 }) ∧ t.2 = false) ∧
    (c.rest < i.limits.abandonTime * 1000 → i.travel = false → i.pose.quality ≠ .invalid →
      Relation.ReflTransGen (CycleMove i) c.state t.1.state ∧
      (∀ d, ¬CycleMove i t.1.state d) ∧
      ((∀ d, ¬CycleMove i c.state d) → t = (c, false)) ∧
      ((∃ d, CycleMove i c.state d) → t.1.age = 0) ∧
      t.1.rest = c.rest ∧
      (t.2 = true ↔ Relation.ReflTransGen (CycleMove i) c.state .swingEmpty ∧ CycleMove i .swingEmpty .digging) ∧
      t.1.session = (if t.2 then addSat 65535 c.session 1 else c.session) ∧
      t.1.total = (if t.2 then addSat 4294967295 c.total 1 else c.total))

/-! ### Grade Guide -/

/-- BENCHMARK_CAPTURE and GUARD_SET (R43, R49, R51): taken in RUN, a capture on a GOOD pose with a valid slew
writes the benchmark at the tip and evaluates the guidance, and is otherwise refused; a GUARD_SET of 0 or 1
sets the switch and evaluates when it changed, and any other value is refused; outside RUN both are refused
with REFUSED_STATE. GUARD_SUSPENDED follows the guard (R53). -/
def Obligations.GradeRequests : Prop :=
  ∀ (s : State) (f : Frame),
    (Delivered s .benchmarkCapture f .cab →
      (∀ (a : Nat) (x y : Int), s.power = .run → s.pose.record.slew = some a → s.pose.record.plan = some (x, y) →
        s.pose.record.quality = .good →
        ∃ t, exec (.benchmarkCapture f) s = .next t ∧
          t.grade = { s.grade with bench :=
            { state := .current, zb := s.pose.record.zt, eb := s16 f.data 0, xb := x, yb := y } }.evaluate
              s.planActive s.inForce s.pose.record ∧
          AlertsFollow [.guardSuspended] s t ∧
          Taken s t .cab .benchmarkCapture .done 0 [.grade] [] [.guardSuspended]) ∧
      (s.power ≠ .run ∨ s.pose.record.slew = none ∨ s.pose.record.quality ≠ .good →
        ∃ t, exec (.benchmarkCapture f) s = .next t ∧ RefusedWith s t .cab .benchmarkCapture .refusedState)) ∧
    (Delivered s .guardSet f .cab →
      (s.power = .run → u8 f.data 0 ≤ 1 →
        ∃ t, exec (.guardSet f) s = .next t ∧ t.grade.guardOn = decide (u8 f.data 0 = 1) ∧
          t.grade.bench = s.grade.bench ∧
          t.grade = (if decide (u8 f.data 0 = 1) = s.grade.guardOn then s.grade
            else { s.grade with guardOn := decide (u8 f.data 0 = 1) }.evaluate s.planActive s.inForce
              s.pose.record) ∧
          AlertsFollow [.guardSuspended] s t ∧
          Taken s t .cab .guardSet .done 0 [.grade] [] [.guardSuspended]) ∧
      (s.power = .run → 1 < u8 f.data 0 →
        ∃ t, exec (.guardSet f) s = .next t ∧ RefusedWith s t .cab .guardSet .refusedRange) ∧
      (s.power ≠ .run →
        ∃ t, exec (.guardSet f) s = .next t ∧ RefusedWith s t .cab .guardSet .refusedState))

/-- The guidance record over a panel table in ascending number and a pose whose plan coordinates are present
with its slew copy (R46 to R48): the status is the first that applies; without a plan, a pose or a CURRENT
benchmark every value is absent; a panel is named exactly when one covers the tip, and is then the
lowest-numbered that does; the elevations are those of the benchmark and that panel, bounded as stored. -/
def Obligations.GuidanceRecord : Prop :=
  ∀ (active : Bool) (panels : List Panel) (pose : PoseRec) (b : Benchmark) (g : Guidance),
    panels.Pairwise (fun p q => p.number < q.number) →
    (pose.quality ≠ .invalid → (pose.slew.isSome ↔ pose.plan.isSome)) →
    g = guidance active panels pose b →
    (g.status = .noPlan ↔ active = false) ∧
    (g.status = .poseInvalid ↔ active = true ∧ pose.quality = .invalid) ∧
    (g.status = .noBenchmark ↔ active = true ∧ pose.quality ≠ .invalid ∧ b.state = .none) ∧
    (g.status = .staleBenchmark ↔ active = true ∧ pose.quality ≠ .invalid ∧ b.state = .stale) ∧
    (g.status = .noPlan ∨ g.status = .poseInvalid ∨ g.status = .noBenchmark ∨ g.status = .staleBenchmark →
      g.tip = none ∧ g.design = none ∧ g.cutFill = none ∧ g.panel = none) ∧
    (active = true → pose.quality ≠ .invalid → b.state = .current →
      g.tip = some (max (-32768) (min 32767 (pose.zt - b.zb + b.eb))) ∧
      ∀ covers : Panel → Prop,
        (∀ p, covers p ↔ ∃ a, pose.slew = some a ∧
          (turn p.start p.stop = 0 ∨ turn p.start a ≤ turn p.start p.stop) ∧ p.low ≤ pose.rt ∧ pose.rt ≤ p.high) →
        (g.status = .noPanel ↔ ∀ p ∈ panels, ¬covers p) ∧
        (g.status = .lowConfidence ↔ pose.quality = .degraded ∧ ∃ p ∈ panels, covers p) ∧
        (g.status = .valid ↔ pose.quality = .good ∧ ∃ p ∈ panels, covers p) ∧
        ((∀ p ∈ panels, ¬covers p) → g.design = none ∧ g.cutFill = none ∧ g.panel = none) ∧
        ((∃ p ∈ panels, covers p) → ∃ p ∈ panels, covers p ∧ (∀ q ∈ panels, covers q → p.number ≤ q.number) ∧
          g.panel = some p.number ∧ ∃ x y, pose.plan = some (x, y) ∧
            ∀ e : Int, e = p.e0 + roundDiv (p.gx * (x - b.xb)) 1000 + roundDiv (p.gy * (y - b.yb)) 1000 →
              g.design = some (max (-32768) (min 32767 e)) ∧
              g.cutFill = some (max (-9999) (min 9999 (pose.zt - b.zb + b.eb - e)))))

/-- The guard after an evaluation (R52): OFF and SUSPENDED demand 1000; ACTIVE demands from the stored cut/fill
c and the guard band G in force: 1000 from G up, 0 at grade and below, and between them 150 plus the floor of
850 c / G, which lies from 150 to 1000 and grows with c. -/
def Obligations.GuardDemand : Prop :=
  ∀ (g t : Grade) (active : Bool) (v : InForce) (pose : PoseRec), t = g.evaluate active v pose →
    t.bench = g.bench ∧ t.guardOn = g.guardOn ∧
    (g.guardOn = false → t.guard = .off ∧ t.demand = 1000) ∧
    (g.guardOn = true → t.guide.status ≠ .valid → t.guide.status ≠ .lowConfidence →
      t.guard = .suspended ∧ t.demand = 1000) ∧
    (g.guardOn = true → (t.guide.status = .valid ∨ t.guide.status = .lowConfidence) →
      t.guard = .active ∧ ∃ c, t.guide.cutFill = some c ∧
        ((v.limits.guardBand : Int) ≤ c → t.demand = 1000) ∧
        (c < v.limits.guardBand → 0 < c →
          (t.demand : Int) = 150 + 850 * c / v.limits.guardBand ∧ 150 ≤ t.demand ∧ t.demand < 1000) ∧
        (c < v.limits.guardBand → c ≤ 0 → t.demand = 0))

/-! ### Envelope Unit -/

/-- A SECTOR fence and ENVELOPE_CRAWL (R60, R61, R65, R67, R68). With a valid slew angle outside the sector
each slew function is capped by the stopping rule over the remaining angle toward the fence; inside, BREACHED,
it may leave toward the nearer exit at crawl; the remaining distance is the lesser angle, below 0 inside.
Without a valid angle the fence is INDETERMINATE with crawl on both slew functions and no remaining distance.
The other six functions are free. ENVELOPE_CRAWL demands crawl on both slew functions while the angle is
invalid or no plan is active, on BOOM_UP while no plan is active, and 1000 elsewhere. -/
def Obligations.SectorFence : Prop :=
  (∀ (c : Limits) (g : FenceGeom) (pose : PoseRec), g.kind = .sector →
    (∀ (angle : Option Nat) (f : Func), f ≠ .slewLeft → f ≠ .slewRight →
      (judgeFence c g pose angle).demands.get f = 1000) ∧
    (∀ j : Judgement, j = judgeFence c g pose none →
      j.state = .indeterminate ∧ j.remaining = none ∧ j.demands.slewLeft = c.crawl ∧
      j.demands.slewRight = c.crawl) ∧
    (∀ (a : Nat) (j : Judgement), j = judgeFence c g pose (some a) →
      (∀ left right : Nat, (left : Int) = turn a g.start → (right : Int) = turn g.stop a →
        turn g.start g.stop < turn g.start a →
        j.demands.slewLeft = stopCap c left ∧ j.demands.slewRight = stopCap c right ∧
        j.remaining = some { amount := (min left right : Nat), unit := .cd } ∧
        (j.state = .held ↔ left ≤ c.margin ∨ right ≤ c.margin) ∧
        (j.state = .clear ↔ c.margin < left ∧ c.margin < right ∧ stopCap c left = 1000 ∧ stopCap c right = 1000 ∧
          c.margin + g.band ≤ left ∧ c.margin + g.band ≤ right) ∧
        (j.state = .held ∨ j.state = .approach ∨ j.state = .clear)) ∧
      (∀ left right : Nat, (left : Int) = turn a g.stop → (right : Int) = turn g.start a →
        turn g.start a ≤ turn g.start g.stop →
        j.state = .breached ∧ j.remaining = some { amount := -(min left right : Nat), unit := .cd } ∧
        (left < right → j.demands.slewLeft = c.crawl ∧ j.demands.slewRight = 0) ∧
        (right < left → j.demands.slewLeft = 0 ∧ j.demands.slewRight = c.crawl) ∧
        (left = right → j.demands.slewLeft = c.crawl ∧ j.demands.slewRight = c.crawl)))) ∧
  ∀ (crawl : Nat) (valid active : Bool) (f : Func),
    (crawlRow crawl valid active).get f =
      if ((f = .slewLeft ∨ f = .slewRight) ∧ (valid = false ∨ active = false)) ∨ (f = .boomUp ∧ active = false)
      then crawl else 1000

/-- A CEILING, FLOOR or REACH fence (R62 to R67) with its limit L and the remaining distance r of its kind, for
a crawl cap of at most 1000. Applying all round or with the slew inside its sector, it caps its function and
takes its state by r, and in a sector with r below 0 adds the slew demands of the nearer exit. With the slew
outside its sector it demands nothing while r is at least 0, and otherwise caps the slew by the stopping rule.
It is INDETERMINATE with an INVALID pose, or with an invalid slew angle and a sector. -/
def Obligations.HeightFence : Prop :=
  ∀ (c : Limits) (g : FenceGeom) (pose : PoseRec) (angle : Option Nat) (j : Judgement) (L r : Int) (F : Func),
    c.crawl ≤ 1000 → g.limit = some L →
    ((g.kind = .ceiling ∧ F = .boomUp ∧ r = L - pose.htop) ∨ (g.kind = .floor ∧ F = .boomDown ∧ r = pose.zt - L) ∨
      (g.kind = .reach ∧ F = .stickOut ∧ r = L - pose.rmax)) →
    j = judgeFence c g pose angle →
    (∀ f, f ≠ F → f ≠ .slewLeft → f ≠ .slewRight → j.demands.get f = 1000) ∧
    (pose.quality = .invalid →
      j.state = .indeterminate ∧ j.remaining = none ∧ j.demands.get F = c.crawl ∧
      j.demands.slewLeft = (if turn g.start g.stop = 0 then 1000 else c.crawl) ∧
      j.demands.slewRight = (if turn g.start g.stop = 0 then 1000 else c.crawl)) ∧
    (pose.quality ≠ .invalid → ∀ cap : Int,
      cap = (if (g.band : Int) ≤ r then 1000 else if 0 < r then c.crawl + (1000 - c.crawl) * r / g.band else 0) →
      (turn g.start g.stop = 0 ∨ (∃ a, angle = some a ∧ turn g.start a ≤ turn g.start g.stop) →
        (j.demands.get F : Int) = cap ∧
        j.remaining = some { amount := max (-32768) (min 32767 r), unit := .mm } ∧
        ((g.band : Int) ≤ r → j.state = .clear) ∧ (r < g.band → 0 < r → j.state = .approach) ∧
        (r < g.band → r ≤ 0 → -50 < r → j.state = .held) ∧
        (r < g.band → r ≤ -50 → j.state = .breached) ∧
        (0 ≤ r ∨ turn g.start g.stop = 0 → j.demands.slewLeft = 1000 ∧ j.demands.slewRight = 1000) ∧
        (∀ a, angle = some a → r < 0 → turn g.start g.stop ≠ 0 →
          (turn a g.stop < turn g.start a → j.demands.slewLeft = c.crawl ∧ j.demands.slewRight = 0) ∧
          (turn g.start a < turn a g.stop → j.demands.slewLeft = 0 ∧ j.demands.slewRight = c.crawl) ∧
          (turn g.start a = turn a g.stop → j.demands.slewLeft = c.crawl ∧ j.demands.slewRight = c.crawl))) ∧
      (∀ a left right : Nat, angle = some a → turn g.start g.stop ≠ 0 → turn g.start g.stop < turn g.start a →
        (left : Int) = turn a g.start → (right : Int) = turn g.stop a →
        j.demands.get F = 1000 ∧
        (0 ≤ r → j.state = .clear ∧ j.demands.slewLeft = 1000 ∧ j.demands.slewRight = 1000 ∧
          j.remaining = some { amount := max (-32768) (min 32767 r), unit := .mm }) ∧
        (r < 0 → j.demands.slewLeft = stopCap c left ∧ j.demands.slewRight = stopCap c right ∧
          j.remaining = some { amount := (min left right : Nat), unit := .cd } ∧
          (j.state = .held ↔ left ≤ c.margin ∨ right ≤ c.margin) ∧
          (j.state = .clear ↔ c.margin < left ∧ c.margin < right ∧ stopCap c left = 1000 ∧
            stopCap c right = 1000) ∧
          (j.state = .held ∨ j.state = .approach ∨ j.state = .clear))) ∧
      (angle = none → turn g.start g.stop ≠ 0 →
        j.state = .indeterminate ∧ j.remaining = none ∧ (j.demands.get F : Int) = cap ∧
        j.demands.slewLeft = c.crawl ∧ j.demands.slewRight = c.crawl))

/-- FENCE_SET (R73 to R75, R77), each test in its order, with the sixteen slots of the table. A fence that
passes replaces the contents of its slot and of no other, and the whole table is evaluated, with the stop
signal: from the cab in a CAB slot as it is proposed, from the gateway in a SITE slot as the new site part,
and from the cab in a SITE slot as a tightening of the site part there. A fence that the test of R75 takes is of
the site part's kind, covers every angle it covers, and has no looser limit and no narrower band. The fence
alerts follow (R71, R72, R78). -/
def Obligations.FenceSet : Prop :=
  (∀ g h : FenceGeom, atLeastAsTight g h = true →
    g.kind = h.kind ∧ h.band ≤ g.band ∧
    (∀ a : Nat, (turn h.start h.stop = 0 ∧ h.kind ≠ .sector) ∨ turn h.start a ≤ turn h.start h.stop →
      (turn g.start g.stop = 0 ∧ g.kind ≠ .sector) ∨ turn g.start a ≤ turn g.start g.stop) ∧
    (∀ x y : Int, g.limit = some x → h.limit = some y →
      (h.kind = .ceiling → x ≤ y) ∧ (h.kind = .floor → y ≤ x) ∧ (h.kind = .reach → x ≤ y))) ∧
  ∀ (s : State) (f : Frame) (p : Party) (m : FenceIn), Delivered s .fenceSet f p → m = readFence f.data →
    (s.power ≠ .run → ∃ t, exec (.fenceSet f) s = .next t ∧ RefusedWith s t p .fenceSet .refusedState) ∧
    (s.power = .run → s.env.slots.length = 16 →
      (m.slot = 0 ∨ 16 < m.slot →
        ∃ t, exec (.fenceSet f) s = .next t ∧ RefusedWith s t p .fenceSet .noSuchItem) ∧
      (p = .gateway → 10 < m.slot → m.slot ≤ 16 →
        ∃ t, exec (.fenceSet f) s = .next t ∧ RefusedWith s t p .fenceSet .refusedPermission) ∧
      (1 ≤ m.slot → m.slot ≤ 16 → (p = .gateway → m.slot ≤ 10) →
        (m.kind = none ∨ 35999 < m.start ∨ 35999 < m.stop ∨ (m.kind = some .sector ∧ turn m.start m.stop = 0) ∨
            m.band = some 0 →
          ∃ t, exec (.fenceSet f) s = .next t ∧ RefusedWith s t p .fenceSet .refusedRange) ∧
        (∀ (k : FenceKind) (g : FenceGeom) (widest : Nat) (r : Result) (d : Nat), m.kind = some k →
          m.start ≤ 35999 → m.stop ≤ 35999 → (k = .sector → turn m.start m.stop ≠ 0) → m.band ≠ some 0 →
          widest = (if k = .sector then 9000 else 10000) →
          g = { kind := k, start := m.start, stop := m.stop, limit := if k = .sector then none else some m.limit,
                band := match m.band with | some b => min b widest | none => s.inForce.limits.defaultBand } →
          ((∃ b, m.band = some b ∧ widest < b ∧ r = .clamped ∧ d = widest) ∨
            ((∀ b, m.band = some b → b ≤ widest) ∧ r = .done ∧ d = 0)) →
          (∀ site : Option FenceGeom, p = .cab → m.slot ≤ 10 →
            site = ((slotAt s.env.slots m.slot).fence.bind fun x => x.site) →
            (site = none →
              ∃ t, exec (.fenceSet f) s = .next t ∧ RefusedWith s t p .fenceSet .refusedState) ∧
            (∀ h, site = some h → atLeastAsTight g h = false →
              ∃ t, exec (.fenceSet f) s = .next t ∧ RefusedWith s t p .fenceSet .refusedLoosen)) ∧
          (∀ x : Fence,
            ((p = .cab ∧ 10 < m.slot ∧ x = { eff := g, site := none, verified := true, tightened := false }) ∨
              (p = .gateway ∧ x = { eff := g, site := some g, verified := true, tightened := false }) ∨
              (p = .cab ∧ m.slot ≤ 10 ∧ ∃ h, ((slotAt s.env.slots m.slot).fence.bind fun y => y.site) = some h ∧
                atLeastAsTight g h = true ∧
                x = { eff := g, site := some h, verified := true, tightened := decide (g ≠ h) })) →
            ∃ t, exec (.fenceSet f) s = .next t ∧ SlotSet s t m.slot (some x) ∧
              t.env.slots = settleSlots t.judgedSlots ∧
              t.econ = { s.econ with stopCopy := stopInForce t.env.slots } ∧
              AlertsFollow fenceCodes s t ∧ Taken s t p .fenceSet r d [.env, .econ] [] fenceCodes))))

/-- FENCE_CLEAR and FENCES_CONFIRM (R76, R77, R79). In RUN a CAB slot, and a SITE slot cleared by the gateway,
becomes EMPTY; a SITE slot cleared by the cab returns to its site part with its verified flag kept; the other
slots keep their contents, and a table that changed is evaluated. FENCES_CONFIRM sets every verified flag. The
tests of the slot and of the power state refuse as R73 and R76 give. The fence alerts follow (R71, R72,
R78). -/
def Obligations.FenceClearAndConfirm : Prop :=
  ∀ (s : State) (f : Frame) (p : Party),
    (Delivered s .fenceClear f p → ∀ n, n = u8 f.data 0 →
      (s.power ≠ .run → ∃ t, exec (.fenceClear f) s = .next t ∧ RefusedWith s t p .fenceClear .refusedState) ∧
      (s.power = .run → s.env.slots.length = 16 →
        (n = 0 ∨ 16 < n → ∃ t, exec (.fenceClear f) s = .next t ∧ RefusedWith s t p .fenceClear .noSuchItem) ∧
        (p = .gateway → 10 < n → n ≤ 16 →
          ∃ t, exec (.fenceClear f) s = .next t ∧ RefusedWith s t p .fenceClear .refusedPermission) ∧
        (1 ≤ n → n ≤ 16 → (p = .gateway → n ≤ 10) → ∀ x : Option Fence,
          x = (if p = .gateway ∨ 10 < n then none
            else (slotAt s.env.slots n).fence.map fun y =>
              { y with eff := y.site.getD y.eff, tightened := false }) →
          ∃ t, exec (.fenceClear f) s = .next t ∧ SlotSet s t n x ∧
            (x ≠ (slotAt s.env.slots n).fence → t.env.slots = settleSlots t.judgedSlots ∧
              t.econ = { s.econ with stopCopy := stopInForce t.env.slots }) ∧
            (x = (slotAt s.env.slots n).fence → t.env = s.env ∧ t.econ = s.econ) ∧
            AlertsFollow fenceCodes s t ∧ Taken s t p .fenceClear .done 0 [.env, .econ] [] fenceCodes))) ∧
    (Delivered s .fencesConfirm f .cab →
      (s.power ≠ .run →
        ∃ t, exec (.fencesConfirm f) s = .next t ∧ RefusedWith s t .cab .fencesConfirm .refusedState) ∧
      (s.power = .run →
        ∃ t, exec (.fencesConfirm f) s = .next t ∧
          t.env = { s.env with slots := s.env.slots.map fun c =>
            { c with fence := c.fence.map fun x => { x with verified := true } } } ∧
          AlertsFollow [.fencesUnverified] s t ∧
          Taken s t .cab .fencesConfirm .done 0 [.env] [] [.fencesUnverified]))

/-! ### Cap Merger -/

/-- The merge of a function (R84, R86): over the rows of sixteen slots, ENVELOPE_CRAWL, twenty-four items and
GRADE_GUARD, in that order, the cap is the least demand, or 1000 when none is less; a cap below 1000 names the
first contributor that demands it, and a cap of 1000 names none. -/
def Obligations.MergeTakesLeast : Prop :=
  ∀ (t : DemandTable) (f : Func) (rows : List (Contributor × Row)),
    t.slots.length = 16 → t.items.length = 24 →
    rows = (List.range 16).map (fun k => (Contributor.fence (k + 1), t.slots.getD k Row.free)) ++
      [(.envelopeCrawl, t.crawl)] ++
      (List.range 24).map (fun k => (Contributor.service (k + 1), t.items.getD k Row.free)) ++
      [(.gradeGuard, t.guard)] →
    ((mergeAll t).get f).value ≤ 1000 ∧
    (∀ x ∈ rows, ((mergeAll t).get f).value ≤ x.2.get f) ∧
    (((mergeAll t).get f).value < 1000 → ∃ pre post row,
      rows = pre ++ (((mergeAll t).get f).limiting, row) :: post ∧ row.get f = ((mergeAll t).get f).value ∧
      ∀ x ∈ pre, ((mergeAll t).get f).value < x.2.get f) ∧
    (((mergeAll t).get f).value = 1000 → ((mergeAll t).get f).limiting = .none)

/-- VALVE_STATUS and ECHO_TIMER_EXPIRY in RUN (R92 to R94): an echo agrees on a function when its cap there is
at most 250 and is that of the CAP_SET last sent or of the one before. An echo that agrees everywhere brings
the check to AGREED; one that does not takes AGREED to DISAGREEING and starts the timer of 200 ms; without a
CAP_SET sent none is compared. The timer's end in DISAGREEING brings MISMATCHED and raises VALVE_ECHO_MISMATCH
at priority 7, here into a list with room and no such entry (RaiseAndWithdraw has the others), and an echo
that agrees withdraws it. Of all commands only these two in RUN, TX_SUCCESS while the merger sends
(TxSuccess), and a key-off, a wake, a start and a power loss change anything of the echo record. That a
stopped timer stands at 0 is the model's choice (log 32). -/
def Obligations.ValveEcho : Prop :=
  (∀ s : State, s.power = .run →
    (∀ (f : Frame) (disagrees : Func → Prop), Delivered s .valveStatus f .valve →
      (∀ fn, disagrees fn ↔ ¬((readEcho f.data).get fn ≤ 250 ∧
        ((∃ e, s.caps.lastSent = some e ∧ (readEcho f.data).get fn = e.get fn) ∨
          ∃ e, s.caps.sentBefore = some e ∧ (readEcho f.data).get fn = e.get fn))) →
      ∃ t, exec (.valveStatus f) s = .next t ∧ t.links = heardLinks s .valve ∧
        (s.caps.check = .noReference ∨ s.caps.lastSent = none →
          t.caps.check = s.caps.check ∧ t.caps.mismatched = s.caps.mismatched ∧
          t.caps.echoTimer = s.caps.echoTimer) ∧
        (s.caps.check ≠ .noReference → s.caps.lastSent ≠ none →
          (∀ fn, t.caps.mismatched.get fn = true ↔ disagrees fn) ∧
          ((∀ fn, ¬disagrees fn) → t.caps.check = .agreed ∧ t.caps.echoTimer = 0) ∧
          ((∃ fn, disagrees fn) → s.caps.check = .agreed → t.caps.check = .disagreeing ∧ t.caps.echoTimer = 200) ∧
          ((∃ fn, disagrees fn) → s.caps.check ≠ .agreed →
            t.caps.check = s.caps.check ∧ t.caps.echoTimer = s.caps.echoTimer)) ∧
        t.caps.lastSent = s.caps.lastSent ∧ t.caps.sentBefore = s.caps.sentBefore ∧
        t.caps.sending = s.caps.sending ∧ AlertsFollow [.valveEchoMismatch] s t ∧
        Keeps [.links] [] (linkCodes ++ [.valveEchoMismatch]) s t) ∧
    (s.caps.check = .disagreeing → s.caps.echoTimer = 0 →
      ∃ t, exec .echoTimerExpiry s = .next t ∧ t.caps.check = .mismatched ∧
        t.caps.mismatched = s.caps.mismatched ∧ t.caps.lastSent = s.caps.lastSent ∧
        t.caps.sentBefore = s.caps.sentBefore ∧
        t.caps.echoTimer = 0 ∧
        Raised s t .valveEchoMismatch .none 7 ∧
        Keeps [] [] [.valveEchoMismatch] s t)) ∧
  ∀ (c : Instr) (s t : State), exec c s = .next t → ¬EchoKept s t →
    match c with
    | .valveStatus _ | .echoTimerExpiry | .keyOff => s.power = .run
    | .txSuccess _ _ => s.caps.sending = true
    | .keyOn | .wake _ => s.power = .parked
    | .startingReadComplete => s.power = .starting
    | .powerLoss _ => True
    | _ => False

/-- The status messages of RUN (R50, R80, R88, R110, R111, R128, R142). When one of the five periods has
run, its message is placed with the content at hand and the period starts again from 0. After a step into
RUN or within it that changed what brings a message on change, that message waits with the content at hand:
GRADE_STATUS at another guidance status or guard state, ENVELOPE_STATUS, CAP_SET and ECON_STATUS at another
content, the window count of ECON_STATUS aside, STEP_DEMAND at another issued step or target speed,
SERVICE_STATUS at another item or item state, ALERT_OFFER at another offer, top in service, not-listed flag
or mask and at the cab's return to ONLINE. A waiting CAP_SET or STEP_DEMAND always carries the content at
hand. -/
def Obligations.PeriodicMessages : Prop :=
  (∀ s t : State, CapsCurrent s → StepCurrent s → OfferCurrent s → step s = .next t → t.power = .run →
    (t.grade.guide.status ≠ s.grade.guide.status ∨ t.grade.guard ≠ s.grade.guard →
      Waits t .gradeStatus .cab (gradeStatusData t.grade)) ∧
    (envelopeStatusData t ≠ envelopeStatusData s → Waits t .envelopeStatus .cab (envelopeStatusData t)) ∧
    (capSetData t.caps.caps ≠ capSetData s.caps.caps → Waits t .capSet .valve (capSetData t.caps.caps)) ∧
    (t.step.issued ≠ s.step.issued ∨ t.targetRpm ≠ s.targetRpm →
      Waits t .stepDemand .engine (stepDemandData t.step.issued t.targetRpm)) ∧
    (econStatusWith t 0 ≠ econStatusWith s 0 → Waits t .econStatus .cab (econStatusData t)) ∧
    (t.svc.items.map (fun i => (i.defn.number, i.usage.state)) ≠
        s.svc.items.map (fun i => (i.defn.number, i.usage.state)) →
      Waits t .serviceStatus .cab (serviceStatusData t.svc)) ∧
    (offerKey t.alerts ≠ offerKey s.alerts ∨ t.alerts.notListed ≠ s.alerts.notListed ∨
        t.alerts.mask ≠ s.alerts.mask ∨ (s.links.cab.state ≠ .online ∧ t.links.cab.state = .online) →
      Waits t .alertOffer .cab (alertOfferData t.alerts)) ∧
    (WaitingCurrent s → WaitingCurrent t)) ∧
  ∀ s : State, s.power = .run → CapsCurrent s → StepCurrent s → OfferCurrent s →
    (100 ≤ s.periods.grade →
      ∃ t, exec .gradeStatusPeriod s = .next t ∧ t.periods = { s.periods with grade := 0 } ∧
        Waits t .gradeStatus .cab (gradeStatusData s.grade) ∧ OnlyChanges [.periods, .ports] s t ∧
        t.ports.powertrain = s.ports.powertrain) ∧
    (200 ≤ s.periods.envelope →
      ∃ t, exec .envelopeStatusPeriod s = .next t ∧ t.periods = { s.periods with envelope := 0 } ∧
        Waits t .envelopeStatus .cab (envelopeStatusData s) ∧ OnlyChanges [.periods, .ports] s t ∧
        t.ports.powertrain = s.ports.powertrain) ∧
    (50 ≤ s.periods.capSet →
      ∃ t, exec .capSetPeriod s = .next t ∧ t.periods = { s.periods with capSet := 0 } ∧
        Waits t .capSet .valve (capSetData s.caps.caps) ∧ OnlyChanges [.periods, .ports] s t ∧
        t.ports.powertrain = s.ports.powertrain) ∧
    (200 ≤ s.periods.step →
      ∃ t, exec .stepDemandPeriod s = .next t ∧ t.periods = { s.periods with step := 0 } ∧
        Waits t .stepDemand .engine (stepDemandData s.step.issued s.targetRpm) ∧
        OnlyChanges [.periods, .ports] s t ∧ t.ports.implement = s.ports.implement) ∧
    (500 ≤ s.periods.econ →
      ∃ t, exec .econStatusPeriod s = .next t ∧ t.periods = { s.periods with econ := 0 } ∧
        Waits t .econStatus .cab (econStatusData s) ∧ OnlyChanges [.periods, .ports] s t ∧
        t.ports.powertrain = s.ports.powertrain)

/-! ### Economy Unit -/

/-- ENGINE_STATUS taken in RUN (R96, R99, R101, R112, R119): the record takes the message with its bounds; the
fuel increment of the record before it is charged to the fuel meters; with the running flag set in ACTIVE and
AUTO a load joins the window, which a clear running flag discards, and in any other mode or idle state the
window stands. The items on fuel gain the litres that the meter gains (R123), also where the meter is held at
its bound (the model's choice, log 29), and the item alerts follow (R126), as does the alert ENGINE_DERATE_FLOOR
(R107). -/
def Obligations.EngineStatus : Prop :=
  ∀ (s : State) (f : Frame) (m : EngineIn) (units millilitres : Nat), s.power = .run →
    Delivered s .engineStatus f .engine → m = readEngine f.data →
    units = s.svc.meters.fuelRem +
      (if s.econ.engine.previous then min m.fuel 20000 * min s.econ.engine.age 500 else 0) →
    millilitres = s.svc.meters.millilitres + units / 36000 →
    ∃ t, exec (.engineStatus f) s = .next t ∧ t.links = heardLinks s .engine ∧
      t.econ.engine = { speed := m.speed, load := min m.load 125, fuel := min m.fuel 20000,
                        derate := min m.derate 9, running := m.running, age := 0, previous := true } ∧
      (m.running = false → t.econ.count = 0 ∧ t.econ.sum = 0 ∧ t.econ.down = 0 ∧
        t.econ.selection = s.econ.selection ∧ t.econ.average = s.econ.average) ∧
      (m.running = true → s.econ.idle = .active → s.econ.mode = .auto →
        t.econ = { s.econ with engine := t.econ.engine }.addSample (min m.load 125) s.inForce.econ) ∧
      (m.running = true → s.econ.idle = .active → s.econ.mode = .auto → s.econ.count + 1 < 32 →
        t.econ.count = s.econ.count + 1 ∧ t.econ.sum = s.econ.sum + min m.load 125 ∧
        t.econ.down = s.econ.down ∧ t.econ.selection = s.econ.selection ∧ t.econ.average = s.econ.average) ∧
      (m.running = true → s.econ.idle = .idling ∨ s.econ.mode = .manual →
        t.econ.count = s.econ.count ∧ t.econ.sum = s.econ.sum ∧ t.econ.down = s.econ.down ∧
        t.econ.selection = s.econ.selection ∧ t.econ.average = s.econ.average) ∧
      t.econ.mode = s.econ.mode ∧ t.econ.idle = s.econ.idle ∧ t.econ.operatorCap = s.econ.operatorCap ∧
      t.econ.siteCap = s.econ.siteCap ∧ t.econ.manualStep = s.econ.manualStep ∧
      t.svc.meters = { s.svc.meters with
        fuelRem := units % 36000, millilitres := millilitres % 1000,
        litres := addSat 4294967295 s.svc.meters.litres (millilitres / 1000) } ∧
      t.svc.held = s.svc.held ∧ ItemsGain (fun b => if b = .fuelL then millilitres / 1000 else 0) s t ∧
      (ItemsDistinct s → AlertsFollow itemCodes s t) ∧ AlertsFollow endCodes s t ∧
      Keeps [.links, .econ, .svc] [] (linkCodes ++ itemCodes) s t

/-- The window closes at its 32nd sample (R100): the target is the highest step whose threshold is at most the
average, the selection rises to it at once and falls by one step at the second window in a row below, and the
window restarts empty. -/
def Obligations.WindowCloses : Prop :=
  ∀ (c t : Econ) (e : EconSettings) (load a target : Nat), e.Sound → c.count = 31 → t = c.addSample load e →
    a = (c.sum + load) / 32 →
    (1 ≤ target ∧ target ≤ 10 ∧ (stepRow e target).threshold ≤ a ∧
      ∀ k, target < k → k ≤ 10 → a < (stepRow e k).threshold) →
    t.average = some a ∧ t.count = 0 ∧ t.sum = 0 ∧
    (c.selection < target → t.selection = target ∧ t.down = 0) ∧
    (target = c.selection → t.selection = c.selection ∧ t.down = 0) ∧
    (target < c.selection → c.down = 0 → t.selection = c.selection ∧ t.down = 1) ∧
    (target < c.selection → c.down = 1 → t.selection = c.selection - 1 ∧ t.down = 0) ∧
    t.engine = c.engine ∧ t.mode = c.mode ∧ t.idle = c.idle ∧ t.operatorCap = c.operatorCap ∧
    t.siteCap = c.siteCap

/-- The judgement of the step (R106, R107): the chosen step is the least of the selection and the five caps,
the limiting input the selection where it is that least, else the first cap in the order FENCE, SERVICE, PHASE,
SITE, OPERATOR that is; the issued step is 1 in IDLING and otherwise the chosen step less the derate, at least
1; the floor condition reads the difference before that bound. -/
def Obligations.StepJudgement : Prop :=
  ∀ (i : StepIn) (l : List (Limiting × Nat)),
    l = [(.selection, i.selection), (.fence, i.fenceCap), (.service, i.serviceCap), (.phase, i.phaseCap),
         (.site, i.siteCap), (.operator, i.operatorCap)] →
    (∀ x ∈ l, i.chosen ≤ x.2) ∧
    (∃ pre post, l = pre ++ (i.limiting, i.chosen) :: post ∧ ∀ x ∈ pre, i.chosen < x.2) ∧
    (i.idle = .idling → i.issued = 1 ∧ i.floorHolds = false) ∧
    (i.idle = .active → 1 ≤ i.issued ∧ (i.derate < i.chosen → i.issued = i.chosen - i.derate) ∧
      (i.chosen ≤ i.derate → i.issued = 1) ∧
      (i.floorHolds = true ↔ 0 < i.derate ∧ (i.chosen : Int) - i.derate < i.floorStep))

/-- ECON_MODE, ECON_CAP and SITE_STEP_CAP (R101 to R104). In RUN a step is bounded to 1 to 10, and answered
CLAMPED with the step taken where that changed it: MANUAL takes it as manual step and selection, the two caps
take it as theirs. AUTO keeps selection and manual step. A change of mode discards the window. Any other mode
is refused, and so are all three outside RUN. -/
def Obligations.EconomyRequests : Prop :=
  ∀ (s : State) (f : Frame) (step k d : Nat) (r : Result) (discarded : Econ),
    k = max 1 (min 10 step) → ((k = step ∧ r = .done ∧ d = 0) ∨ (k ≠ step ∧ r = .clamped ∧ d = k)) →
    discarded = { s.econ with count := 0, sum := 0, down := 0 } →
    (Delivered s .econMode f .cab →
      (s.power = .run → u8 f.data 0 = 0 →
        ∃ t, exec (.econMode f) s = .next t ∧
          t.econ = (if s.econ.mode = .auto then s.econ else { discarded with mode := .auto }) ∧
          Taken s t .cab .econMode .done 0 [.econ] [] []) ∧
      (s.power = .run → u8 f.data 0 = 1 → step = u8 f.data 1 →
        ∃ t, exec (.econMode f) s = .next t ∧
          t.econ = { (if s.econ.mode = .manual then s.econ else discarded) with
            mode := .manual, manualStep := k, selection := k } ∧
          Taken s t .cab .econMode r d [.econ] [] []) ∧
      (s.power = .run → 1 < u8 f.data 0 →
        ∃ t, exec (.econMode f) s = .next t ∧ RefusedWith s t .cab .econMode .refusedRange) ∧
      (s.power ≠ .run →
        ∃ t, exec (.econMode f) s = .next t ∧ RefusedWith s t .cab .econMode .refusedState)) ∧
    (Delivered s .econCap f .cab → step = u8 f.data 0 →
      (s.power = .run → ∃ t, exec (.econCap f) s = .next t ∧ t.econ = { s.econ with operatorCap := k } ∧
        Taken s t .cab .econCap r d [.econ] [] []) ∧
      (s.power ≠ .run →
        ∃ t, exec (.econCap f) s = .next t ∧ RefusedWith s t .cab .econCap .refusedState)) ∧
    (Delivered s .siteStepCap f .gateway → step = u8 f.data 0 →
      (s.power = .run → ∃ t, exec (.siteStepCap f) s = .next t ∧ t.econ = { s.econ with siteCap := k } ∧
        Taken s t .gateway .siteStepCap r d [.econ] [] []) ∧
      (s.power ≠ .run →
        ∃ t, exec (.siteStepCap f) s = .next t ∧ RefusedWith s t .gateway .siteStepCap .refusedState))

/-! ### Service Account Unit -/

/-- HUNDREDTH_HOUR_COMPLETION, HIGH_PRESSURE_MINUTE and IDLE_DELAY_EXPIRY (R101, R108, R117, R118, R120). The
completing step's accumulator returns its remainder to 0 and gains one, and so does the hour meter; the
weighted hours gain what the step's weight carries over 100; items on engine hours and weighted hours gain as
their meters do; at a multiple of ten a checkpoint is asked for. A high-pressure minute gains one on its meter
and items. The item alerts follow (R126). At the idle delay with both pilot flags clear the Economy Unit
becomes IDLING and discards its window. That the first two are taken in every power state (log 13), and that
the items gain on while their meter is held at its bound (log 29), are the model's choices. -/
def Obligations.MeterAndIdleTimes : Prop :=
  ∀ s : State,
    (∀ (k w : Nat) (m : Meters), 1 ≤ k → m = s.svc.meters → w = m.weightRem + (stepRow s.inForce.econ k).weight →
      36000 ≤ (m.acc.getD (k - 1) { whole := 0, rem := 0 }).rem →
      ∃ t, exec (.hundredthHourCompletion k) s = .next t ∧
        t.svc.meters = { m with
          acc := m.acc.set (k - 1)
            { whole := addSat 4294967295 (m.acc.getD (k - 1) { whole := 0, rem := 0 }).whole 1, rem := 0 }
          hour := addSat 4294967295 m.hour 1
          weighted := addSat 4294967295 m.weighted (w / 100)
          weightRem := w % 100 } ∧
        ItemsGain (fun b => if b = .engineHours then 1 else if b = .weightedHours then w / 100 else 0) s t ∧
        (ItemsDistinct s → AlertsFollow itemCodes s t) ∧
        t.svc.held = s.svc.held ∧
        (t.svc.meters.hour % 10 = 0 → CheckpointAsked s t) ∧
        (t.svc.meters.hour % 10 ≠ 0 → t.ctrl = s.ctrl ∧ t.chip = s.chip) ∧
        Keeps [.svc, .ctrl, .chip] [] itemCodes s t) ∧
    (60000 ≤ s.svc.meters.highRem →
      ∃ t, exec .highPressureMinute s = .next t ∧
        t.svc.meters = { s.svc.meters with
          highRem := 0, highMinutes := addSat 4294967295 s.svc.meters.highMinutes 1 } ∧
        ItemsGain (fun b => if b = .highPressureMin then 1 else 0) s t ∧
        (ItemsDistinct s → AlertsFollow itemCodes s t) ∧
        t.svc.held = s.svc.held ∧ Keeps [.svc] [] itemCodes s t) ∧
    (s.power = .run → s.econ.idle = .active → s.meas.press.travelFlag = false →
      s.meas.press.implementFlag = false → s.inForce.econ.idleDelay * 1000 ≤ s.econ.idleTimer →
      ∃ t, exec .idleDelayExpiry s = .next t ∧
        t.econ = { s.econ with idle := .idling, count := 0, sum := 0, down := 0 } ∧ Keeps [.econ] [] [] s t)

/-- An item's used value gains with its basis and its state is judged (R123): a DEFERRED item stays so until
its deferred-until value and is then OVERDUE; an OVERDUE item stays so; any other takes the highest threshold
it has reached. -/
def Obligations.ItemGain : Prop :=
  ∀ (i t : Item) (n : Nat), t = i.gain n →
    t.defn = i.defn ∧ t.alert = i.alert ∧ t.usage.used = addSat 4294967295 i.usage.used n ∧
    t.usage.deferredFlag = i.usage.deferredFlag ∧ t.usage.signOffs = i.usage.signOffs ∧
    t.usage.hourAt = i.usage.hourAt ∧
    (∀ limit, i.usage.state = .deferred → i.usage.deferredUntil = some limit →
      (t.usage.used < limit → t.usage.state = .deferred ∧ t.usage.deferredUntil = some limit) ∧
      (limit ≤ t.usage.used → t.usage.state = .overdue ∧ t.usage.deferredUntil = none)) ∧
    (i.usage.state = .overdue → t.usage.state = .overdue) ∧
    (i.usage.state ≠ .deferred → t.usage.deferredUntil = i.usage.deferredUntil) ∧
    (i.usage.state = .ok ∨ i.usage.state = .dueSoon ∨ i.usage.state = .due →
      ByThresholds i.defn t.usage.used t.usage.state)

/-- SERVICE_DEFER and SERVICE_DONE (R124, R125), each test in its order. A DUE item not yet deferred this
interval is deferred by the amount, at most half its margin; an item signed off starts its interval anew at the
hour meter. The other items keep definition and usage; the item alerts follow (R126); SERVICE_STATUS is placed
in RUN and a checkpoint asked for. -/
def Obligations.ServiceRequests : Prop :=
  ∀ (s : State) (f : Frame) (p : Party) (n : Nat) (i : Item), n = u8 f.data 0 →
    (Delivered s .serviceDefer f .cab → ∀ amount most : Nat, amount = u32 f.data 1 → most = i.defn.margin / 2 →
      (s.power ≠ .run →
        ∃ t, exec (.serviceDefer f) s = .next t ∧ RefusedWith s t .cab .serviceDefer .refusedState) ∧
      (s.power = .run → findItem s.svc.items n = none →
        ∃ t, exec (.serviceDefer f) s = .next t ∧ RefusedWith s t .cab .serviceDefer .noSuchItem) ∧
      (s.power = .run → findItem s.svc.items n = some i →
        (amount = 0 →
          ∃ t, exec (.serviceDefer f) s = .next t ∧ RefusedWith s t .cab .serviceDefer .refusedRange) ∧
        (amount ≠ 0 → (i.usage.state ≠ .due ∨ i.usage.deferredFlag = true ∨ most = 0) →
          ∃ t, exec (.serviceDefer f) s = .next t ∧ RefusedWith s t .cab .serviceDefer .refusedState) ∧
        (∀ (r : Result) (d : Nat), amount ≠ 0 → i.usage.state = .due → i.usage.deferredFlag = false → most ≠ 0 →
          ((amount ≤ most ∧ r = .done ∧ d = 0) ∨ (most < amount ∧ r = .clamped ∧ d = most)) →
          ∃ t, exec (.serviceDefer f) s = .next t ∧ t.svc.meters = s.svc.meters ∧ t.svc.held = s.svc.held ∧
            (∃ j, findItem t.svc.items n = some j ∧ j.defn = i.defn ∧ j.usage = { i.usage with
              state := .deferred, deferredUntil := some (i.usage.used + min amount most), deferredFlag := true }) ∧
            (∀ m, m ≠ n → (findItem t.svc.items m).map (fun j => (j.defn, j.usage)) =
              (findItem s.svc.items m).map (fun j => (j.defn, j.usage))) ∧
            Waits t .serviceStatus .cab (serviceStatusData t.svc) ∧ CheckpointAsked s t ∧
            (ItemsDistinct s → AlertsFollow itemCodes s t) ∧
            Taken s t .cab .serviceDefer r d [.svc, .ctrl, .chip] [] itemCodes))) ∧
    (Delivered s .serviceDone f p →
      (s.power = .parking →
        ∃ t, exec (.serviceDone f) s = .next t ∧ RefusedWith s t p .serviceDone .refusedState) ∧
      (s.power ≠ .parking → findItem s.svc.items n = none →
        ∃ t, exec (.serviceDone f) s = .next t ∧ RefusedWith s t p .serviceDone .noSuchItem) ∧
      (s.power ≠ .parking → findItem s.svc.items n = some i → p = .cab → i.defn.cabSignOff = false →
        ∃ t, exec (.serviceDone f) s = .next t ∧ RefusedWith s t p .serviceDone .refusedPermission) ∧
      (s.power ≠ .parking → findItem s.svc.items n = some i → (p = .cab → i.defn.cabSignOff = true) →
        ∃ t, exec (.serviceDone f) s = .next t ∧ t.svc.meters = s.svc.meters ∧ t.svc.held = s.svc.held ∧
          (∃ j, findItem t.svc.items n = some j ∧ j.defn = i.defn ∧ j.usage = { i.usage with
            used := 0, state := .ok, deferredUntil := none, deferredFlag := false
            signOffs := addSat 65535 i.usage.signOffs 1, hourAt := s.svc.meters.hour }) ∧
          (∀ m, m ≠ n → (findItem t.svc.items m).map (fun j => (j.defn, j.usage)) =
            (findItem s.svc.items m).map (fun j => (j.defn, j.usage))) ∧
          (s.power = .run → Waits t .serviceStatus .cab (serviceStatusData t.svc)) ∧
          CheckpointAsked s t ∧
          (p = .gateway → s.power = .serviceAwake → t.ctrl.awakeTimer = 300000) ∧
          (ItemsDistinct s → AlertsFollow itemCodes s t) ∧
          Taken s t p .serviceDone .done 0 [.svc, .ctrl, .chip] [] itemCodes))

/-! ### Alert List -/

/-- Raising and withdrawing on a sound list (R135 to R137, R139). A raise without a match joins a list with
room as a new entry, and a full list in the place of the candidate for eviction where that has the lower
priority, else it sets the not-listed flag; a raise with a match keeps the entry's place in the order of
raising and its service, counts it, clears its flags and may lift its priority. A withdrawal removes a match
that is not in service and marks one in service resolved. -/
def Obligations.RaiseAndWithdraw : Prop :=
  ∀ (a : Alerts) (c : AlertCode) (subj : Subject) (priority hour : Nat), a.Sound → 1 ≤ priority → priority ≤ 7 →
    (∀ fresh : AlertEntry, (∀ e ∈ a.entries, ¬(e.code = c ∧ e.subject = subj)) →
      fresh = { code := c, subject := subj, priority := priority, seq := a.nextSeq, acked := false,
                inService := false, resolved := false, repeats := 1, hourAt := hour } →
      withdrawAlert a c subj = a ∧
      (a.entries.length < 24 →
        (raiseAlert a c subj priority hour).nextSeq = a.nextSeq + 1 ∧
        (raiseAlert a c subj priority hour).notListed = a.notListed ∧
        ∀ x, x ∈ (raiseAlert a c subj priority hour).entries ↔ x = fresh ∨ x ∈ a.entries) ∧
      (a.entries.length = 24 → ∀ v ∈ a.entries, v.inService = false →
        (∀ e ∈ a.entries, e.inService = false →
          v.priority < e.priority ∨ (v.priority = e.priority ∧ v.seq ≤ e.seq)) →
        (v.priority < priority →
          (raiseAlert a c subj priority hour).notListed = a.notListed ∧
          ∀ x, x ∈ (raiseAlert a c subj priority hour).entries ↔ x = fresh ∨ (x ∈ a.entries ∧ x ≠ v)) ∧
        (priority ≤ v.priority → raiseAlert a c subj priority hour = { a with notListed := true })) ∧
      (a.entries.length = 24 → (∀ e ∈ a.entries, e.inService = true) →
        raiseAlert a c subj priority hour = { a with notListed := true })) ∧
    (∀ e ∈ a.entries, e.code = c → e.subject = subj →
      (∃ r : AlertEntry,
        r = { e with
          repeats := min 255 (e.repeats + 1), acked := false, resolved := false
          priority := if e.priority < priority ∧
              (e.inService = false ∨ ∀ o ∈ a.entries, o ≠ e → o.inService = true → o.priority ≠ priority)
            then priority else e.priority } ∧
        (raiseAlert a c subj priority hour).nextSeq = a.nextSeq ∧
        (raiseAlert a c subj priority hour).notListed = a.notListed ∧
        ∀ x, x ∈ (raiseAlert a c subj priority hour).entries ↔ x = r ∨ (x ∈ a.entries ∧ x ≠ e)) ∧
      (e.inService = false →
        ∀ x, x ∈ (withdrawAlert a c subj).entries ↔ x ∈ a.entries ∧ x ≠ e) ∧
      (e.inService = true →
        ∀ x, x ∈ (withdrawAlert a c subj).entries ↔ x = { e with resolved := true } ∨ (x ∈ a.entries ∧ x ≠ e)))

/-- ALERT_TAKE, ALERT_RELEASE and ALERT_MASK (R141, R143 to R145). In RUN a take of the entry offered before
the event puts it into service; that a take is refused when the hearing of the cab has just removed that entry
is the model's choice (log 28). A release of the highest entry in service removes it when it is an event or
resolved, and otherwise leaves it acknowledged out of service, and clears the not-listed flag; the mask takes
the level, at most 6. Any other take, a release with nothing in service, and all three outside RUN, are
refused. -/
def Obligations.AlertRequests : Prop :=
  ∀ (s : State) (f : Frame) (a : Alerts), a = heardAlerts s .cab →
    (Delivered s .alertTake f .cab →
      (∀ o, s.power = .run → s.alerts.offered = some o →
        (∃ e ∈ a.entries, e.code = o.code ∧ e.subject = o.subject) →
        o.code.code = u8 f.data 0 → o.subject.byte = u8 f.data 1 →
        ∃ t, exec (.alertTake f) s = .next t ∧
          t.alerts.entries = a.entries.map (fun e =>
            if e.code = o.code ∧ e.subject = o.subject then { e with inService := true } else e) ∧
          t.alerts.notListed = a.notListed ∧ Taken s t .cab .alertTake .done 0 [] [] [o.code]) ∧
      (s.power ≠ .run ∨ s.alerts.offered = none ∨
          (∃ o, s.alerts.offered = some o ∧ (¬(o.code.code = u8 f.data 0 ∧ o.subject.byte = u8 f.data 1) ∨
            ∀ e ∈ a.entries, ¬(e.code = o.code ∧ e.subject = o.subject))) →
        ∃ t, exec (.alertTake f) s = .next t ∧ RefusedWith s t .cab .alertTake .refusedState)) ∧
    (Delivered s .alertRelease f .cab →
      (∀ o, s.power = .run → a.top = some o →
        ∃ t, exec (.alertRelease f) s = .next t ∧ t.alerts.notListed = false ∧
          (o.code.cls = .event ∨ o.resolved = true → t.alerts.entries =
            a.entries.filter fun e => !(e.code == o.code && e.subject == o.subject)) ∧
          (o.code.cls = .condition → o.resolved = false → t.alerts.entries = a.entries.map (fun e =>
            if e.code = o.code ∧ e.subject = o.subject then { e with inService := false, acked := true }
            else e)) ∧
          Taken s t .cab .alertRelease .done 0 [] [] [o.code]) ∧
      (s.power ≠ .run ∨ a.top = none →
        ∃ t, exec (.alertRelease f) s = .next t ∧ RefusedWith s t .cab .alertRelease .refusedState)) ∧
    (Delivered s .alertMask f .cab →
      (s.power = .run →
        ∃ t, exec (.alertMask f) s = .next t ∧ t.links = heardLinks s .cab ∧
          t.alerts.mask = min 6 (u8 f.data 0) ∧ t.alerts.entries = a.entries ∧
          t.alerts.notListed = a.notListed ∧
          (u8 f.data 0 ≤ 6 → Answered t .cab .alertMask .done 0) ∧
          (6 < u8 f.data 0 → Answered t .cab .alertMask .clamped 6) ∧
          OnlyChanges (.links :: outputs) s t ∧ SameBuses s t ∧ MessagesKept [(.reqResult, .cab)] s t) ∧
      (s.power ≠ .run →
        ∃ t, exec (.alertMask f) s = .next t ∧ RefusedWith s t .cab .alertMask .refusedState))

/-! ### Plan Store -/

/-- PLAN_REQUEST and START_PLAN_WANTED, XFER_ABORT, and the ends of the request timer and the inactivity timer
(R151, R155). PLAN_WANTED is placed, the transfer REQUESTED and the request timer started, by the operator from
IDLE and REQUESTED, and once by a pending start request from IDLE. An abort and an inactivity end an open
transfer in IDLE with staging discarded and both timers stopped; an abort and the request timer end a request
in IDLE. Each timer raises PLAN_TRANSFER_FAILED, here into a list with room and no such entry. That a stopped
timer stands at 0 (log 32), and that a discarded region holds no bytes and the checksum 0 (log 18), are the
model's choices. -/
def Obligations.TransferRequestsAndTimers : Prop :=
  ∀ s : State,
    (∀ f, Delivered s .planRequest f .cab →
      (s.power = .run → s.plan.xfer = .idle ∨ s.plan.xfer = .requested →
        ∃ t, exec (.planRequest f) s = .next t ∧
          t.plan = { s.plan with xfer := .requested, requestTimer := 60000 } ∧
          Waits t .planWanted .gateway (planWantedData .operator s.plan.active) ∧
          Taken s t .cab .planRequest .done 0 [.plan] [(.planWanted, .gateway)] []) ∧
      (s.power ≠ .run ∨ s.plan.xfer = .opened ∨ s.plan.xfer = .receiving →
        ∃ t, exec (.planRequest f) s = .next t ∧ RefusedWith s t .cab .planRequest .refusedState)) ∧
    (s.power = .run ∨ s.power = .serviceAwake → s.plan.startPending = true → s.plan.xfer = .idle →
      ∃ t, exec .startPlanWanted s = .next t ∧
        t.plan = { s.plan with xfer := .requested, requestTimer := 60000, startPending := false } ∧
        Waits t .planWanted .gateway (planWantedData .start s.plan.active) ∧
        Keeps [.plan] [(.planWanted, .gateway)] [] s t) ∧
    (∀ f, Delivered s .xferAbort f .gateway →
      (s.power = .run ∨ s.power = .serviceAwake →
        ∃ t, exec (.xferAbort f) s = .next t ∧
          (s.plan.xfer = .opened ∨ s.plan.xfer = .receiving → t.plan = { s.plan with
            staging := Seven.all emptyRegion, xfer := .idle, requestTimer := 0, inactTimer := 0 }) ∧
          (s.plan.xfer = .requested → t.plan = { s.plan with xfer := .idle, requestTimer := 0 }) ∧
          (s.plan.xfer = .idle → t.plan = s.plan) ∧
          t.ctrl = (s.gatewayArrival .xferAbort .gateway).ctrl ∧
          Taken s t .gateway .xferAbort .done 0 [.plan, .ctrl] [] []) ∧
      (s.power = .parking →
        ∃ t, exec (.xferAbort f) s = .next t ∧ RefusedWith s t .gateway .xferAbort .refusedState)) ∧
    (s.power = .run ∨ s.power = .serviceAwake →
      (s.plan.xfer = .requested → s.plan.requestTimer = 0 →
        ∃ t, exec .requestTimerExpiry s = .next t ∧ t.plan = { s.plan with xfer := .idle } ∧
          Raised s t .planTransferFailed .none 3 ∧
          Keeps [.plan] [] [.planTransferFailed] s t) ∧
      (s.plan.xfer = .opened ∨ s.plan.xfer = .receiving → s.plan.inactTimer = 0 →
        ∃ t, exec .inactivityTimerExpiry s = .next t ∧
          t.plan = { s.plan with
            staging := Seven.all emptyRegion, xfer := .idle, requestTimer := 0, inactTimer := 0 } ∧
          Raised s t .planTransferFailed .none 4 ∧
          Keeps [.plan] [] [.planTransferFailed] s t))

/-- XFER_OPEN and XFER_DATA (R150, R152, R153). An open takes a section that fits its region when none is being
received: its region is emptied and its reception begins at offset 0. Data of one to six bytes at the expected
offset within the declared length joins the region; data at another offset or beyond the length ends the
reception unreceived with an XFER_SUM that says so; any other is refused with the transfer as it stands but
for the inactivity timer. That the request timer, stopped by an open, stands at 0 (log 32), and that the
checksum kept with a region is 0 from an open and after a reception that failed (log 18), are the model's
choices. -/
def Obligations.SectionBytes : Prop :=
  ∀ (s : State) (f : Frame),
    (Delivered s .xferOpen f .gateway →
      (s.power = .parking ∨ s.plan.xfer = .receiving →
        ∃ t, exec (.xferOpen f) s = .next t ∧ RefusedWith s t .gateway .xferOpen .refusedState) ∧
      (s.power ≠ .parking → s.plan.xfer ≠ .receiving →
        (sectionOf (u8 f.data 0) = none ∨
            (∃ k, sectionOf (u8 f.data 0) = some k ∧ regionSize k < u16 f.data 1) →
          ∃ t, exec (.xferOpen f) s = .next t ∧ RefusedWith s t .gateway .xferOpen .refusedRange) ∧
        (∀ k, sectionOf (u8 f.data 0) = some k → u16 f.data 1 ≤ regionSize k →
          ∃ t, exec (.xferOpen f) s = .next t ∧
            t.plan = { s.plan with
              staging := s.plan.staging.set k { received := false, length := 0, sum := 0, bytes := [] }
              xfer := .receiving, receiving := k, declared := u16 f.data 1, expected := 0
              requestTimer := 0, inactTimer := 20000 } ∧
            Waits t .xferReady .gateway (xferReadyData k (u16 f.data 1)) ∧
            t.ctrl = (s.gatewayArrival .xferOpen .gateway).ctrl ∧
            Taken s t .gateway .xferOpen .done 0 [.plan, .ctrl] [(.xferReady, .gateway)] []))) ∧
    (Delivered s .xferData f .gateway → ∀ (offset : Nat) (bytes : List Byte),
      offset = u16 f.data 0 → bytes = f.data.drop 2 →
      (s.power = .parking ∨ s.plan.xfer ≠ .receiving →
        ∃ t, exec (.xferData f) s = .next t ∧ RefusedWith s t .gateway .xferData .refusedState) ∧
      (s.power ≠ .parking → s.plan.xfer = .receiving → ∀ r : Region, r = s.plan.staging.get s.plan.receiving →
        (bytes.length = 0 ∨ 6 < bytes.length →
          ∃ t, exec (.xferData f) s = .next t ∧ RefusedWith s t .gateway .xferData .refusedRange) ∧
        (1 ≤ bytes.length → bytes.length ≤ 6 →
          (offset = s.plan.expected → offset + bytes.length ≤ s.plan.declared →
            ∃ t, exec (.xferData f) s = .next t ∧
              t.plan = { s.plan with
                staging := s.plan.staging.set s.plan.receiving { r with bytes := r.bytes ++ bytes }
                expected := s.plan.expected + bytes.length, inactTimer := 20000 } ∧
              t.ctrl = (s.gatewayArrival .xferData .gateway).ctrl ∧
              Taken s t .gateway .xferData .done 0 [.plan, .ctrl] [] []) ∧
          (∀ o : SumOutcome, ((offset ≠ s.plan.expected ∧ o = .badOffset) ∨
              (offset = s.plan.expected ∧ s.plan.declared < offset + bytes.length ∧ o = .overrun)) →
            ∃ t, exec (.xferData f) s = .next t ∧
              t.plan = { s.plan with
                staging := s.plan.staging.set s.plan.receiving
                  { r with received := false, length := s.plan.expected, sum := 0 }
                xfer := .opened, inactTimer := 20000 } ∧
              Waits t .xferSum .gateway (xferSumData s.plan.receiving s.plan.expected (checksum r.bytes) o) ∧
              Answered t .gateway .xferData .refusedRange 0 ∧
              t.fault = offerFault s.fault .gateway .xferData .refusedRange s.svc.meters.hour ∧
              t.links = heardLinks s .gateway ∧ t.ctrl = (s.gatewayArrival .xferData .gateway).ctrl ∧
              Keeps [.links, .fault, .plan, .ctrl] [(.reqResult, .gateway), (.xferSum, .gateway)] linkCodes
                s t))))

/-- XFER_END of a section, and of an INDEX whose plan fails its tests (R154, R156, R158). The section is
received when all its declared bytes have come, its length and checksum kept and sent in XFER_SUM; a failing
plan ends the transfer with staging discarded and XFER_RESULT naming the first failure, the active plan and
everything taken from it unchanged. That the stopped timers stand at 0 (log 32), that a SHORT section keeps the
checksum 0 and a discarded region holds no bytes and that checksum (log 18), and that XFER_RESULT fills the
identity with 0 under NO_PLAN (log 10), are the model's choices. -/
def Obligations.SectionEnd : Prop :=
  ∀ (s : State) (f : Frame) (r : Region) (full : Bool) (staged : Seven Region), Delivered s .xferEnd f .gateway →
    r = s.plan.staging.get s.plan.receiving → full = decide (s.plan.expected = s.plan.declared) →
    staged = s.plan.staging.set s.plan.receiving
      { r with received := full, length := s.plan.expected, sum := if full then checksum r.bytes else 0 } →
    (s.power = .parking ∨ s.plan.xfer ≠ .receiving →
      ∃ t, exec (.xferEnd f) s = .next t ∧ RefusedWith s t .gateway .xferEnd .refusedState) ∧
    (s.power ≠ .parking → s.plan.xfer = .receiving →
      (s.plan.receiving ≠ .index →
        ∃ t, exec (.xferEnd f) s = .next t ∧
          t.plan = { s.plan with staging := staged, xfer := .opened, inactTimer := 20000 } ∧
          Waits t .xferSum .gateway (xferSumData s.plan.receiving s.plan.expected (checksum r.bytes)
            (if full then .received else .short)) ∧
          t.ctrl = (s.gatewayArrival .xferEnd .gateway).ctrl ∧
          Taken s t .gateway .xferEnd .done 0 [.plan, .ctrl] [(.xferSum, .gateway)] []) ∧
      (∀ (k : Section) (why : CommitReason), s.plan.receiving = .index → judgeCommit staged = .error (k, why) →
        ∃ t, exec (.xferEnd f) s = .next t ∧
          t.plan = { s.plan with
            staging := Seven.all emptyRegion, xfer := .idle, requestTimer := 0, inactTimer := 0 } ∧
          Waits t .xferSum .gateway (xferSumData .index s.plan.expected (checksum r.bytes)
            (if full then .received else .short)) ∧
          Waits t .xferResult .gateway (xferFailedData k why s.plan.active) ∧
          t.ctrl = (s.gatewayArrival .xferEnd .gateway).ctrl ∧
          Taken s t .gateway .xferEnd .done 0 [.plan, .ctrl] [(.xferSum, .gateway), (.xferResult, .gateway)] []))

/-- The tests of a commit (R156), on the staging area with its INDEX: it passes exactly when the INDEX is
received with its 30 bytes and each of the six sections is received, has the length and checksum that the INDEX
gives, and reads in range; the plan is then the staged bytes with their checksums. A failure names the first
section that fails and the first test it fails. -/
def Obligations.CommitTests : Prop :=
  ∀ (staging : Seven Region) (index : List Byte) (passes : Section → Prop), index = staging.index.bytes →
    (∀ k, passes k ↔ (staging.get k).received = true ∧ (staging.get k).length = u16 index (6 + 4 * k.code) ∧
      (staging.get k).sum.toNat = u16 index (8 + 4 * k.code) ∧ contentOk k (staging.get k).bytes = true) →
    ((∃ r, judgeCommit staging = .ok r) ↔ staging.index.received = true ∧ staging.index.length = 30 ∧
      ∀ k ∈ planSections, passes k) ∧
    (∀ plan c, judgeCommit staging = .ok (plan, c) →
      plan.bytes = staging.map (fun r => r.bytes) ∧ plan.sums = staging.map (fun r => r.sum) ∧
      planContent plan.bytes = some c) ∧
    (∀ k why, judgeCommit staging = .error (k, why) →
      (k = .index → (why = .missing ∧ staging.index.received = false) ∨
        (why = .length ∧ staging.index.received = true ∧ staging.index.length ≠ 30)) ∧
      (k ≠ .index → staging.index.received = true ∧ staging.index.length = 30 ∧ ¬passes k ∧
        (∀ m ∈ planSections, m.code < k.code → passes m) ∧
        (why = .missing ↔ (staging.get k).received = false) ∧
        (why = .length ↔ (staging.get k).received = true ∧
          (staging.get k).length ≠ u16 index (6 + 4 * k.code)) ∧
        (why = .checksum ↔ (staging.get k).received = true ∧
          (staging.get k).length = u16 index (6 + 4 * k.code) ∧
          (staging.get k).sum.toNat ≠ u16 index (8 + 4 * k.code))))

/-- XFER_END of an INDEX whose plan passes its tests (R20, R81, R115, R128 to R130, R154, R157, R159,
R174): the plan is active and its values are in force; the SITE slots hold its fences and the CAB slots
theirs; the item table is the plan's: an item of the old table or of the held usage keeps its usage, with
its deferral and state judged anew, a lost one is DUE with its interval used, and any other is new;
SERVICE_STATUS tells of changed records; the site step cap is the plan's, the window discarded and the idle
timer compared with the new idle delay (R109), the rest of the Economy Unit kept; in SERVICE_AWAKE the SITE
slots stand unjudged and their rows go to the Cap Merger; benchmark and guard switch stand; staging is
discarded; the plan image is STORING and takes the store port, or waits for it ahead of a pending
checkpoint; XFER_SUM and XFER_RESULT are placed. The Cycle Monitor evaluates, and a cycle completed there
counts on the new items (R36, R41, R121, log 23); PLAN_COMMITTED is raised, and the alerts follow (R31,
R53, R71, R72, R78, R126), those of the items where the table is the plan's, as every step keeps it
(PlanStoreStaysSound). That the stopped timers stand at 0 (log 32), that a discarded region holds no bytes
and the checksum 0 (log 18), that a new item is OK until its first gain (log 16), that XFER_RESULT fills
section and reason with 0 (log 10), that items gain on while their meter is held at its bound (log 29), and
the order of sections and evaluations (log 23), are the model's choices. -/
def Obligations.CommitTakesPlan : Prop :=
  (∀ (d : ItemDef) (items : List Item) (held : List UsageEntry) (t : Item), t = itemAtCommit d items held →
    t.defn = d ∧
    (∀ i, findItem items d.number = some i → t.alert = i.alert ∧ Carried d i.usage t.usage) ∧
    (findItem items d.number = none → t.alert = none ∧
      (∀ x, held.find? (fun x => x.number == d.number) = some x →
        (∀ b u, x.content = some (b, u) → Carried d u t.usage) ∧
        (x.content = none → t.usage = { used := d.interval, state := .due, deferredUntil := none,
                                        deferredFlag := false, signOffs := 0, hourAt := 0 })) ∧
      (held.find? (fun x => x.number == d.number) = none →
        t.usage = { used := 0, state := .ok, deferredUntil := none, deferredFlag := false, signOffs := 0,
                    hourAt := 0 }))) ∧
  ∀ (s : State) (f : Frame) (r : Region) (full : Bool) (staged : Seven Region) (plan : ActivePlan)
      (c : PlanContent), Delivered s .xferEnd f .gateway → s.power ≠ .parking → s.plan.xfer = .receiving →
    s.plan.receiving = .index → s.env.slots.length = 16 → r = s.plan.staging.index →
    full = decide (s.plan.expected = s.plan.declared) →
    staged = { s.plan.staging with index :=
      { r with received := full, length := s.plan.expected, sum := if full then checksum r.bytes else 0 } } →
    judgeCommit staged = .ok (plan, c) →
    ∃ t, exec (.xferEnd f) s = .next t ∧
      t.plan = { s.plan with
        active := some plan, staging := Seven.all { received := false, length := 0, sum := 0, bytes := [] }
        xfer := .idle, requestTimer := 0, inactTimer := 0, image := .storing } ∧
      t.inForce = c.inForce ∧
      t.meas = { s.meas with press := { s.meas.press with
        highFlag := decide (c.inForce.limits.highPressure ≤ s.meas.press.pump) } } ∧
      t.charge.high = decide (c.inForce.limits.highPressure ≤ s.meas.press.pump) ∧
      (∀ n, 1 ≤ n → n ≤ 10 → (slotAt t.env.slots n).fence = (c.fences.find? fun q => q.1 == n).map fun q =>
        { eff := q.2, site := some q.2, verified := true, tightened := false }) ∧
      (∀ n, 11 ≤ n → n ≤ 16 → (slotAt t.env.slots n).fence = (slotAt s.env.slots n).fence) ∧
      (s.power = .run → t.env.slots = settleSlots t.judgedSlots) ∧
      (s.power = .serviceAwake →
        (∀ n, 1 ≤ n → n ≤ 10 → SlotUnjudged c.inForce.limits.crawl (slotAt t.env.slots n)) ∧
        (∀ n, 11 ≤ n → n ≤ 16 → slotAt t.env.slots n = slotAt s.env.slots n) ∧
        t.env = { s.env with slots := t.env.slots } ∧
        (s.caps.rows.slots.length = 16 → ∀ n, 1 ≤ n → n ≤ 10 →
          (slotAt s.env.slots n).fence ≠ none ∨ (slotAt t.env.slots n).fence ≠ none →
          t.caps.rows.slots.getD (n - 1) Row.free = (slotAt t.env.slots n).demands) ∧
        t.caps.caps = mergeAll t.caps.rows) ∧
      t.svc.items.map (fun i => i.defn) = c.items ∧ t.svc.held = none ∧
      (∃ done, CycleTaken s.cycle True done s t ∧
        t.svc.meters = { s.svc.meters with
          digCycles := if done then addSat 4294967295 s.svc.meters.digCycles 1 else s.svc.meters.digCycles } ∧
        t.svc.items = c.items.map fun d =>
          let i := itemAtCommit d s.svc.items (s.svc.held.getD [])
          let j := if d.basis = .digCycles ∧ done = true then i.gain 1 else i
          { j with alert := j.usage.state.alert }) ∧
      RaisedAmong s t .planCommitted .none ∧
      AlertsFollow ([.planNone, .tilt, .guardSuspended] ++ fenceCodes) s t ∧
      (PlanInForce s → AlertsFollow itemCodes s t) ∧
      (s.power = .run → t.svc.items ≠ s.svc.items → Waits t .serviceStatus .cab (serviceStatusData t.svc)) ∧
      t.econ = { s.econ with
        siteCap := c.inForce.econ.siteStepCap, count := 0, sum := 0, down := 0, cycleCopy := t.econ.cycleCopy
        stopCopy := if s.power = .run then stopInForce t.env.slots else s.econ.stopCopy
        idle := if s.power = .run ∧ s.meas.press.travelFlag = false ∧ s.meas.press.implementFlag = false ∧
            c.inForce.econ.idleDelay * 1000 ≤ s.econ.idleTimer then .idling else s.econ.idle } ∧
      t.grade.bench = s.grade.bench ∧ t.grade.guardOn = s.grade.guardOn ∧
      t.ctrl.pendingCkpt = true ∧ t.ctrl.writing = s.ctrl.writing ∧
      (s.ctrl.writing = none → t.ctrl.imageWrite = .onPort ∧ t.chip = { s.chip with image := none }) ∧
      (s.ctrl.writing ≠ none → t.ctrl.imageWrite = .waiting ∧ t.chip = s.chip) ∧
      Waits t .xferSum .gateway (xferSumData .index s.plan.expected (checksum r.bytes)
        (if full then .received else .short)) ∧
      Waits t .xferResult .gateway (xferDoneData (some plan)) ∧
      Taken s t .gateway .xferEnd .done 0
        [.plan, .inForce, .meas, .pose, .cycle, .grade, .env, .econ, .svc, .charge, .ctrl, .chip]
        [(.xferSum, .gateway), (.xferResult, .gateway)]
        ([.planNone, .planCommitted, .tilt, .guardSuspended] ++ fenceCodes ++ itemCodes)

/-! ### Link Unit -/

/-- A request from a master that may not send its kind is refused with REFUSED_PERMISSION, one with another
length than its kind's with REFUSED_RANGE, and each refusal is offered to the message fault record, which keeps
the first capture and marks that more came (R163, R164). FAULT_CLEAR clears the record in RUN and
SERVICE_AWAKE. That a gateway request of a wrong length restarts the timers is the model's choice (log 21). -/
def Obligations.RefusalsAreRecorded : Prop :=
  ∀ (s : State) (f : Frame) (p : Party),
    (∀ k : RxKind, k.isRequest = true → Heard s f p → p ≠ .sensor →
      (f.dest = partNode ∨ f.dest = broadcastNode) →
      (permits k p = false → ∃ t, exec (k.toInstr f) s = .next t ∧ RefusedWith s t p k .refusedPermission) ∧
      (permits k p = true → k.lengthOk f.data = false →
        ∃ t, exec (k.toInstr f) s = .next t ∧ RefusedWith s t p k .refusedRange)) ∧
    (∀ (k : RxKind) (r : Result) (h : Nat),
      offerFault none p k r h = some { node := p.node, kind := k, result := r, hour := h, more := false } ∧
      ∀ c, offerFault (some c) p k r h = some { c with more := true }) ∧
    (Delivered s .faultClear f p →
      (s.power = .run ∨ s.power = .serviceAwake →
        ∃ t, exec (.faultClear f) s = .next t ∧ t.fault = none ∧
          t.ctrl = (s.gatewayArrival .faultClear p).ctrl ∧
          Taken s t p .faultClear .done 0 [.fault, .ctrl] [] []) ∧
      (s.power = .parking →
        ∃ t, exec (.faultClear f) s = .next t ∧ RefusedWith s t p .faultClear .refusedState))

/-- READ and READ_NEXT_PAGE (R168). A READ snapshots the record its selector and index name and places its
first page of eight bytes, bit 7 of the page field marking a last page; an unknown selector and an index that
names nothing are refused. The next page is placed at the report of the page before, and after the last the
read ends; that READ_NEXT_PAGE is this step where no page of the reader waits (log 17), and that the snapshot is
taken after the reader's link is heard (log 31), are the model's choices. -/
def Obligations.ReadsByPages : Prop :=
  ∀ (s : State) (q : Reader) (p : Party), p = Reader.party q →
    (∀ (f : Frame) (sel idx : Byte), Delivered s .read f p → sel = f.data.getD 0 0 → idx = f.data.getD 1 0 →
      (snapshot (heardState s .read p) sel.toNat idx.toNat = .unknown →
        ∃ t, exec (.read f) s = .next t ∧ RefusedWith s t p .read .refusedRange) ∧
      (snapshot (heardState s .read p) sel.toNat idx.toNat = .noItem →
        ∃ t, exec (.read f) s = .next t ∧ RefusedWith s t p .read .noSuchItem) ∧
      (∀ bytes, snapshot (heardState s .read p) sel.toNat idx.toNat = .record bytes →
        ∃ t, exec (.read f) s = .next t ∧ t.links = heardLinks s p ∧
          t.reads.get q = some { selector := sel, index := idx, bytes := bytes, page := 0 } ∧
          (∀ q', q' ≠ q → t.reads.get q' = s.reads.get q') ∧
          Waits t .readData p ([sel, idx, if bytes.length ≤ 8 then 128 else 0] ++ bytes.take 8) ∧
          t.ctrl = (s.gatewayArrival .read p).ctrl ∧
          Keeps [.links, .reads, .ctrl] [(.readData, p)] linkCodes s t)) ∧
    (∀ r, s.reads.get q = some r → (∀ e ∈ (s.ports.get p.port).list, ¬(e.kind = .readData ∧ e.dest = p.node)) →
      ∃ t, exec (.readNextPage q) s = .next t ∧ (∀ q', q' ≠ q → t.reads.get q' = s.reads.get q') ∧
        (8 * (r.page + 1) < r.bytes.length →
          t.reads.get q = some { r with page := r.page + 1 } ∧
          Waits t .readData p ([r.selector, r.index, BitVec.ofNat 8 (r.page + 1 +
            if r.bytes.length ≤ 8 * (r.page + 2) then 128 else 0)] ++ (r.bytes.drop (8 * (r.page + 1))).take 8)) ∧
        (r.bytes.length ≤ 8 * (r.page + 1) → t.reads.get q = none) ∧
        Keeps [.reads] [(.readData, p)] [] s t)

/-- TX_SUCCESS on a port that can send (R92, R93, R165, R166, R168), of the head of its list or of a frame
that began earlier: the error count loses one; the message leaves the list unless its content was replaced
meanwhile, of a READ_DATA unless the next page follows it; a CAP_SET is recorded as last sent while the
merger sends; the next page of a read is placed, or the read ends; the others wait on, the page of the
other reader among them. For a message of the end of an event this is said in states that the invariants of
caps, step and offer hold in, where the event has none to place. The row of a frame that began earlier, and
its replaced mark (log 9), that such a frame begun before PARKING is recorded once a key-on has come (log
34), and that a port goes on counting in PARKED (log 35), are the model's choices. -/
def Obligations.TxSuccess : Prop :=
  ∀ (s : State) (p : Port) (m : SentFrame) (earlier : Option SentFrame),
    (s.power = .run ∨ s.power = .parking ∨ s.power = .parked ∨ s.power = .serviceAwake) →
    (s.ports.get p).bus = .onBus →
    (earlier = some m ∨ (earlier = none ∧ ∃ o rest, (s.ports.get p).list = o :: rest ∧
      m = { kind := o.kind, dest := o.dest, data := o.data, replaced := false })) →
    ∃ t, exec (.txSuccess p earlier) s = .next t ∧
      (t.ports.get p).errors = (s.ports.get p).errors - 1 ∧ (t.ports.get p).bus = .onBus ∧
      (t.ports.get p).recovery = (s.ports.get p).recovery ∧ (t.ports.get p).busOffs = (s.ports.get p).busOffs ∧
      (∀ q, q ≠ p → SameBus q s t) ∧
      (m.replaced = false → m.kind ≠ .readData → atEventEnd m.kind = false →
        ∀ e ∈ (t.ports.get p).list, ¬(e.kind = m.kind ∧ e.dest = m.dest)) ∧
      (∀ k q d, atEventEnd k = false → (k = .readData → m.kind = .readData → Party.node q ≠ m.dest) →
        (m.replaced = true ∨ k ≠ m.kind ∨ Party.node q ≠ m.dest ∨ Party.port q ≠ p) →
        (Waits t k q d ↔ Waits s k q d)) ∧
      (CapsCurrent s → StepCurrent s → OfferCurrent s →
        (m.replaced = false →
          (m.kind = .readData → ∀ q r, m.dest = Party.node (Reader.party q) → s.reads.get q = some r →
            r.bytes.length ≤ 8 * (r.page + 1)) →
          ∀ e ∈ (t.ports.get p).list, ¬(e.kind = m.kind ∧ e.dest = m.dest)) ∧
        (∀ k q d, (k = .readData → m.kind = .readData → Party.node q ≠ m.dest) →
          (m.replaced = true ∨ k ≠ m.kind ∨ Party.node q ≠ m.dest ∨ Party.port q ≠ p) →
          (Waits t k q d ↔ Waits s k q d))) ∧
      (m.kind = .capSet → s.caps.sending = true →
        t.caps.lastSent = some (readEcho m.data) ∧ t.caps.sentBefore = s.caps.lastSent ∧
        t.caps.check = (if s.caps.check = .noReference then .agreed else s.caps.check) ∧
        t.caps.mismatched = s.caps.mismatched ∧ t.caps.echoTimer = s.caps.echoTimer) ∧
      (m.kind ≠ .capSet ∨ s.caps.sending = false → EchoKept s t) ∧
      (∀ q r, m.kind = .readData → m.dest = Party.node (Reader.party q) →
        p = Party.port (Reader.party q) → s.reads.get q = some r →
        (8 * (r.page + 1) < r.bytes.length → t.reads.get q = some { r with page := r.page + 1 } ∧
          Waits t .readData (Reader.party q) (readDataPage { r with page := r.page + 1 })) ∧
        (r.bytes.length ≤ 8 * (r.page + 1) → t.reads.get q = none)) ∧
      (m.kind ≠ .readData → t.reads = s.reads) ∧
      OnlyChanges (.reads :: outputs) s t ∧ AlertsKept [] s t

/-- TX_ERROR, RECESSIVE_RUN_OBSERVED and PORT_REJOIN (R97, R166, R167). An error adds 8 to the port's
count, or where that would pass 255 takes the port off its bus: its recovery count returns to 0, its
bus-off count gains one, and its ONLINE links become SILENT, the engine's with the window discarded;
PORT_BUS_OFF and their LINK_SILENT are raised, and the rejoining withdraws PORT_BUS_OFF. A recessive run on
a port off its bus counts one toward 128, at which the port rejoins with both counts 0. The transmit lists
and the other port stand. That the error count stands while a port is off its bus (log 22), that the 128th
run rejoins beside the row PORT_REJOIN (log 17), and that a port counts, goes off its bus and rejoins in
PARKED too (log 35), are the model's choices. -/
def Obligations.BusErrors : Prop :=
  ∀ (s : State) (p : Port),
    (s.power = .run ∨ s.power = .parking ∨ s.power = .parked ∨ s.power = .serviceAwake) →
    ((s.ports.get p).bus = .onBus →
      ((s.ports.get p).errors + 8 ≤ 255 →
        ∃ t, exec (.txError p) s = .next t ∧ (t.ports.get p).errors = (s.ports.get p).errors + 8 ∧
          (t.ports.get p).bus = .onBus ∧ (t.ports.get p).recovery = (s.ports.get p).recovery ∧
          (t.ports.get p).busOffs = (s.ports.get p).busOffs ∧ t.links = s.links ∧ t.econ = s.econ ∧
          AlertsFollow [.linkSilent, .portBusOff] s t ∧ PortEvent p s t) ∧
      (255 < (s.ports.get p).errors + 8 →
        ∃ t, exec (.txError p) s = .next t ∧ (t.ports.get p).bus = .busOff ∧ (t.ports.get p).recovery = 0 ∧
          (t.ports.get p).busOffs = addSat 255 (s.ports.get p).busOffs 1 ∧
          (∀ q : Party, t.links.get q = if q.port = p ∧ (s.links.get q).state = .online then
            { s.links.get q with state := .silent } else s.links.get q) ∧
          t.econ = (if p = .powertrain ∧ s.links.engine.state = .online then
            { s.econ with count := 0, sum := 0, down := 0 } else s.econ) ∧
          AlertsFollow [.linkSilent, .portBusOff] s t ∧ PortEvent p s t)) ∧
    ((s.ports.get p).bus = .busOff →
      ((s.ports.get p).recovery + 1 < 128 →
        ∃ t, exec (.recessiveRunObserved p) s = .next t ∧ (t.ports.get p).bus = .busOff ∧
          (t.ports.get p).recovery = (s.ports.get p).recovery + 1 ∧
          (t.ports.get p).errors = (s.ports.get p).errors ∧
          (t.ports.get p).busOffs = (s.ports.get p).busOffs ∧ t.links = s.links ∧ t.econ = s.econ ∧
          AlertsFollow [.linkSilent, .portBusOff] s t ∧ PortEvent p s t) ∧
      (∀ c : Instr, ((c = .recessiveRunObserved p ∧ 127 ≤ (s.ports.get p).recovery) ∨
          (c = .portRejoin p ∧ 128 ≤ (s.ports.get p).recovery)) →
        ∃ t, exec c s = .next t ∧ (t.ports.get p).bus = .onBus ∧ (t.ports.get p).errors = 0 ∧
          (t.ports.get p).recovery = 0 ∧ (t.ports.get p).busOffs = (s.ports.get p).busOffs ∧
          t.links = s.links ∧ t.econ = s.econ ∧ AlertsFollow [.linkSilent, .portBusOff] s t ∧ PortEvent p s t))

/-- FRAME_NOT_FOR_PART, LINK_SILENT_EXPIRY and LINK_OFFLINE_EXPIRY, and the frames that reach nothing (R97,
R162, R166, R167). A frame that is not heard, of whatever kind, changes nothing, but for the WAKE of the
gateway that passes in PARKED. A frame that is heard and discarded makes its sender's link ONLINE with
silence time 0 and does nothing else: one that is not addressed to the part, a sample or report of another
sender or length, a request of the sensor hub, and every FRAME_NOT_FOR_PART. At its silent time an ONLINE
link becomes SILENT, the engine's with the window discarded; at its offline time a link that is not ONLINE
is OFFLINE and its LINK_OFFLINE stands. Each raises its alert, here into a list with room and no such
entry. The silence time runs in RUN and PARKING, and for the gateway in SERVICE_AWAKE. -/
def Obligations.LinkRecords : Prop :=
  ∀ (s : State) (p : Party),
    (∀ f : Frame, (∀ q, ¬Heard s f q) →
      (∀ kind, exec (.frameNotForPart kind f) s = .next s) ∧
      ∀ k : RxKind, ¬(k = .wake ∧ s.power = .parked ∧ s.ports.powertrain.bus = .onBus ∧ f.port = .powertrain ∧
          f.src = Party.node .gateway ∧ f.dest = partNode ∧ f.data = []) →
        exec (k.toInstr f) s = .next s) ∧
    (∀ (k : RxKind) (f : Frame), Heard s f p →
      ((f.dest ≠ partNode ∧ f.dest ≠ broadcastNode) ∨
        (k.isRequest = false ∧ (k.sender ≠ some p ∨ k.lengthOk f.data = false)) ∨
        (k.isRequest = true ∧ p = .sensor)) →
      ∃ t, exec (k.toInstr f) s = .next t ∧ t.links = heardLinks s p ∧
        AlertsFollow linkCodes s t ∧ Keeps [.links] [] linkCodes s t) ∧
    (∀ (kind : BitVec 10) (f : Frame), notForPart kind f = true → Heard s f p →
      ∃ t, exec (.frameNotForPart kind f) s = .next t ∧ t.links = heardLinks s p ∧
        AlertsFollow linkCodes s t ∧ Keeps [.links] [] linkCodes s t) ∧
    (s.power = .run ∨ s.power = .parking ∨ (s.power = .serviceAwake ∧ p = .gateway) →
      ((s.links.get p).state = .online → p.silentTime ≤ (s.links.get p).silence →
        ∃ t, exec (.linkSilentExpiry p) s = .next t ∧
          t.links = s.links.set p { s.links.get p with state := .silent } ∧
          t.econ = (if p = .engine then { s.econ with count := 0, sum := 0, down := 0 } else s.econ) ∧
          Raised s t .linkSilent (.party p)
            (match p with | .valve => 5 | .sensor => 4 | .engine => 3 | .cab | .gateway => 2) ∧
          Keeps [.links, .econ] [] [.linkSilent] s t) ∧
      ((s.links.get p).state ≠ .online → p.offlineTime ≤ (s.links.get p).silence →
        ∃ t, exec (.linkOfflineExpiry p) s = .next t ∧
          t.links = s.links.set p { s.links.get p with state := .offline, offlineStands := true } ∧
          ((s.links.get p).offlineStands = false → Raised s t .linkOffline (.party p)
            (match p with | .valve => 7 | .sensor => 6 | .engine => 5 | .cab => 4 | .gateway => 3)) ∧
          AlertsFollow [.linkSilent] s t ∧ Keeps [.links] [] linkCodes s t))

/-! ### Power -/

/-- KEY_ON and KEY_OFF (R19, R33, R40, R55, R66, R67, R71, R83, R89 to R91, R113, R114, R148, R150, R151,
R171, R175, R176). A key-on in PARKING, PARKED and SERVICE_AWAKE enters RUN: the fences are judged, the
merger sends what it merged, the idle timer starts at 0, a pending start request is made, and every status
message waits with the content at hand; from PARKING and SERVICE_AWAKE the fence contents and the settings
of the Economy Unit are kept. From PARKED it is a wake, which sets every block afresh: the records, the
pose, the cycle, the guard, the verified flags, the Economy Unit's settings, the echo record, the transfer
with its staging area, the links, the ports and their lists, and the Alert List with the conditions that
stand (R133, R145); the accounts are kept. A key-off in RUN enters PARKING: records and pose are set
afresh, the fences stand unjudged at the crawl cap, the merger halts, the messages of RUN leave the lists,
the alerts of what ends are withdrawn and every other entry and the mask kept, the accounts and the
settings of the Economy Unit are kept, a transfer is abandoned, and the parking checkpoint starts, or waits
for the store port. In the other states each changes its line alone. That the slew angle is 0 before the
index (log 4), that a discarded region holds no bytes and the checksum 0 (log 18), that a key-off keeps the
rest time (log 19) and ends TILT (log 20), and that timers which do not run stand at 0 (log 32), are the
model's choices. -/
def Obligations.KeyLine : Prop :=
  ∀ s : State,
    (s.power = .parking ∨ s.power = .parked ∨ s.power = .serviceAwake →
      ∃ t, exec .keyOn s = .next t ∧ t.power = .run ∧ t.pins = { s.pins with keyOn := true } ∧
        t.ctrl = { s.ctrl with awakeTimer := 0 } ∧ t.chip = s.chip ∧ t.inForce = s.inForce ∧
        t.svc.meters = s.svc.meters ∧ t.econ.idleTimer = 0 ∧ t.econ.engine.previous = false ∧ CapsCurrent t ∧
        t.plan.active = s.plan.active ∧ t.plan.image = s.plan.image ∧
        Waits t .gradeStatus .cab (gradeStatusData t.grade) ∧
        Waits t .envelopeStatus .cab (envelopeStatusData t) ∧
        Waits t .capSet .valve (capSetData t.caps.caps) ∧
        Waits t .stepDemand .engine (stepDemandData t.step.issued t.targetRpm) ∧
        Waits t .econStatus .cab (econStatusData t) ∧
        Waits t .serviceStatus .cab (serviceStatusData t.svc) ∧
        Waits t .alertOffer .cab (alertOfferData t.alerts) ∧
        (s.power ≠ .parked →
          (¬(s.plan.startPending = true ∧ s.plan.xfer = .idle) → t.plan = s.plan) ∧
          (s.plan.startPending = true → s.plan.xfer = .idle → t.plan =
            { s.plan with xfer := .requested, requestTimer := 60000, startPending := false } ∧
            Waits t .planWanted .gateway (planWantedData .start s.plan.active)) ∧
          t.env.slots.map (fun c => c.fence) = s.env.slots.map (fun c => c.fence) ∧
          t.econ = { s.econ with
            engine := { s.econ.engine with previous := false }, idleTimer := 0
            stopCopy := stopInForce t.env.slots } ∧
          OnlyChanges ([.power, .pins, .ctrl, .plan, .env, .econ] ++ outputs) s t ∧ SameBuses s t ∧
          MessagesKept [(.planWanted, .gateway)] s t ∧ AlertsKept fenceCodes s t ∧
          AlertsFollow fenceCodes s t) ∧
        (s.power = .parked → WakeSettings s t ∧ t.econ.stopCopy = stopInForce t.env.slots ∧
          ∀ q, ∀ e ∈ (t.ports.get q).list,
            atEventEnd e.kind = true ∨ (e.kind = .planWanted ∧ s.plan.startPending = true))) ∧
    (s.power = .off ∨ s.power = .starting ∨ s.power = .run →
      exec .keyOn s = .next { s with pins := { s.pins with keyOn := true } }) ∧
    (s.power = .run →
      ∃ t, exec .keyOff s = .next t ∧ t.power = .parking ∧ t.pins = { s.pins with keyOn := false } ∧
        t.meas = coldMeas s.meas.slew.nrev s.meas.slew.reversals ∧
        t.pose = { record := coldPose, tilt := false } ∧
        t.cycle = (if s.cycle.state = .idle then s.cycle else { s.cycle with state := .idle, age := 0 }) ∧
        t.grade.bench = s.grade.bench ∧ t.grade.guardOn = false ∧ t.grade.demand = 1000 ∧
        t.env.slots.map (fun c => c.fence) = s.env.slots.map (fun c => c.fence) ∧
        (∀ c ∈ t.env.slots, SlotUnjudged s.inForce.limits.crawl c) ∧
        t.env.crawl = { slewLeft := s.inForce.limits.crawl, slewRight := s.inForce.limits.crawl
                        boomUp := if s.plan.active = none then s.inForce.limits.crawl else 1000
                        boomDown := 1000, stickOut := 1000, stickIn := 1000, bucketCurl := 1000
                        bucketDump := 1000 } ∧
        t.env.unindexed = false ∧
        SilentOutsideRun t ∧ t.caps.lastSent = none ∧ t.caps.check = .noReference ∧
        AlertsFollow (handOnCodes ++ [.valveEchoMismatch, .engineDerateFloor]) s t ∧
        AlertsKept (handOnCodes ++ [.valveEchoMismatch]) s t ∧
        (∀ e ∈ s.alerts.entries, (Stands s e.code e.subject → Stands t e.code e.subject) → e ∈ t.alerts.entries) ∧
        t.econ = { s.econ with
          engine := coldEngine, count := 0, sum := 0, down := 0, cycleCopy := .idle, travelCopy := false
          stopCopy := false, idle := .active, idleTimer := 0 } ∧
        (s.plan.xfer = .opened ∨ s.plan.xfer = .receiving → t.plan = { s.plan with
          staging := Seven.all emptyRegion, xfer := .idle, requestTimer := 0, inactTimer := 0 }) ∧
        (s.plan.xfer = .requested → t.plan = { s.plan with xfer := .idle, requestTimer := 0 }) ∧
        (s.plan.xfer = .idle → t.plan = s.plan) ∧
        t.ctrl.parkingCkpt = true ∧
        (s.ctrl.writing = none → s.ctrl.imageWrite = .none → ∃ w, t.ctrl.writing = some w ∧ w.parking = true ∧
          w.slot = checkpointSlot s.chip s.ctrl.current ∧ w.seq = nextSequence s.ctrl.current ∧
          w.image = accountImage t ∧ (t.chip.slot w.slot).valid = false ∧ t.ctrl.pendingCkpt = false) ∧
        (s.ctrl.writing ≠ none ∨ s.ctrl.imageWrite ≠ .none → t.ctrl.pendingCkpt = true ∧ t.chip = s.chip ∧
          t.ctrl.writing = s.ctrl.writing.map fun w => { w with parking := false }) ∧
        t.svc = s.svc ∧ t.inForce = s.inForce ∧ t.links = s.links ∧ t.fault = s.fault ∧
        t.reads = s.reads ∧ t.chip.image = s.chip.image ∧ SameBuses s t ∧ MessagesKept [] s t) ∧
    (s.power ≠ .run → exec .keyOff s = .next { s with pins := { s.pins with keyOn := false } })

/-- POWER_LOSS, COLD_START and STARTING_READ_COMPLETE (R18, R33, R40, R55, R82, R91, R113, R126, R130, R132,
R133, R145, R150, R159, R171, R172, R178). A power loss leaves what the chip holds, without a plan image that
was being stored, and the rest as at reset; that this is the reset state, that a cold start sets both lines
(log 2), that a slot whose write is cut short keeps the number it last held (log 3), that an image is lost
while its write still waits (log 15), that the slew angle is 0 before the index (log 4), that a new item is OK
until its first gain (log 16), that an empty region has the checksum 0 (log 18), and that timers which do not
run stand at 0 (log 32) are the model's choices. A cold start enters STARTING. The end of STARTING takes the
valid slot with the higher sequence, 1 above 4294967295, slot A when equal, and the plan image when it passes
its tests, sets every block from them, and enters RUN or PARKED by the key line. An item of the plan takes its
usage from the slot with its deferral and state judged anew, is DUE with its interval used where the slot
marks it lost or no slot is valid, and is otherwise new; without a plan the usage is held. The Alert List
holds the conditions that stand. -/
def Obligations.PowerLossAndColdStart : Prop :=
  ∀ s : State,
    (∀ cause : PowerCause, exec (.powerLoss cause) s = .next { State.reset with
      chip := if s.plan.image = .storing then { s.chip with image := none } else s.chip
      pins := (match cause with
        | .supplyRemoved => { s.pins with supply := false }
        | .resetAsserted => { s.pins with resetReleased := false })
      orders := s.orders, pending := s.pending }) ∧
    (s.power = .off → exec .coldStart s = .next { s with
      power := .starting, pins := { s.pins with supply := true, resetReleased := true } }) ∧
    (s.power = .starting → ∀ (k : Option AccountSlot) (plan : Option (ActivePlan × PlanContent)),
      ((s.chip.slotA.valid = false ∧ s.chip.slotB.valid = false ∧ k = none) ∨
        (s.chip.slotA.valid = true ∧ k = some s.chip.slotA ∧
          (s.chip.slotB.valid = false ∨ (s.chip.slotA.seq = 1 ∧ s.chip.slotB.seq = 4294967295) ∨
            (s.chip.slotB.seq ≤ s.chip.slotA.seq ∧ ¬(s.chip.slotB.seq = 1 ∧ s.chip.slotA.seq = 4294967295)))) ∨
        (s.chip.slotB.valid = true ∧ k = some s.chip.slotB ∧
          (s.chip.slotA.valid = false ∨ (s.chip.slotB.seq = 1 ∧ s.chip.slotA.seq = 4294967295) ∨
            (s.chip.slotA.seq < s.chip.slotB.seq ∧ ¬(s.chip.slotA.seq = 1 ∧ s.chip.slotB.seq = 4294967295))))) →
      plan = restorePlan s.chip.image →
      ∃ t, exec .startingReadComplete s = .next t ∧ t.power = (if s.pins.keyOn then .run else .parked) ∧
        t.pins = s.pins ∧ t.chip = s.chip ∧
        t.ctrl = { current := (match k with | some x => x.seq | none => 0), writing := none,
                   pendingCkpt := false, parkingCkpt := false, accountsLost := k.isNone, awakeTimer := 0,
                   imageWrite := .none } ∧
        t.plan.active = plan.map (fun x => x.1) ∧
        t.plan.image = (if plan.isSome then .valid else .absent) ∧
        (plan.isSome = true → t.plan.xfer = .idle ∧ t.plan.startPending = false) ∧
        (plan = none → s.pins.keyOn = false → t.plan.xfer = .idle ∧ t.plan.startPending = true) ∧
        (plan = none → s.pins.keyOn = true → t.plan.xfer = .requested ∧ t.plan.startPending = false) ∧
        t.inForce = (match plan with | some x => x.2.inForce | none => builtinInForce) ∧
        t.svc.meters = (match k with | some x => x.image.meters | none => zeroMeters) ∧
        t.svc.items.map (fun i => i.defn) = (match plan with | some x => x.2.items | none => []) ∧
        (∀ entries : List UsageEntry, entries = (match k with
            | some x => x.image.items
            | none => (List.range 24).map fun n => { number := n + 1, content := none }) →
          t.svc.held = (match plan with | some _ => none | none => some entries) ∧
          ∀ i ∈ t.svc.items, i.alert = i.usage.state.alert ∧
            (∀ x, entries.find? (fun x => x.number == i.defn.number) = some x →
              (∀ b u, x.content = some (b, u) → Carried i.defn u i.usage) ∧
              (x.content = none → i.usage = { used := i.defn.interval, state := .due, deferredUntil := none,
                                              deferredFlag := false, signOffs := 0, hourAt := 0 })) ∧
            (entries.find? (fun x => x.number == i.defn.number) = none →
              i.usage = { used := 0, state := .ok, deferredUntil := none, deferredFlag := false, signOffs := 0,
                          hourAt := 0 })) ∧
        t.cycle = { state := .idle, age := 0, rest := 0, session := 0
                    total := (match k with | some x => x.image.meters.digCycles | none => 0) } ∧
        t.meas = coldMeas (restoredNrev t.inForce.limits.nominalNrev (k.map fun x => x.image.nrev)) 0 ∧
        t.pose = { record := coldPose, tilt := false } ∧
        t.grade.bench = coldBench ∧ t.grade.guardOn = false ∧
        (∀ n, 1 ≤ n → n ≤ 16 → (slotAt t.env.slots n).fence =
          if n ≤ 10 then
            ((match plan with | some x => x.2.fences | none => []).find?
              fun (q : Nat × FenceGeom) => q.1 == n).map fun (q : Nat × FenceGeom) =>
                { eff := q.2, site := some q.2, verified := true, tightened := false }
          else none) ∧
        (∃ stop : Bool, t.econ =
          { engine := coldEngine, selection := t.inForce.econ.startStep,
            manualStep := t.inForce.econ.startStep, mode := .auto, count := 0, sum := 0, down := 0,
            average := none, operatorCap := 10, siteCap := t.inForce.econ.siteStepCap, cycleCopy := .idle,
            travelCopy := false, stopCopy := stop, idle := .active, idleTimer := 0 }) ∧
        t.plan.staging = Seven.all emptyRegion ∧
        t.caps.check = .noReference ∧ t.caps.mismatched = Eight.all false ∧ t.caps.echoTimer = 0 ∧
        t.caps.lastSent = none ∧ t.caps.sentBefore = none ∧
        t.links = coldLinks ∧ t.fault = none ∧ t.reads = noReads ∧ AlertsAnew s t ∧
        (∀ q, (t.ports.get q).bus = .onBus ∧ (t.ports.get q).errors = 0 ∧ (t.ports.get q).recovery = 0 ∧
          (t.ports.get q).busOffs = 0) ∧
        (s.pins.keyOn = false → t.ports = coldPorts) ∧ t.pending = s.pending)

/-- WAKE, SLEEP, SERVICE_AWAKE_TIMER_EXPIRY and ENTER_PARKED (R155, R162, R165, R168, R175 to R177). A WAKE
from the gateway in PARKED wakes the part into SERVICE_AWAKE with the timer at 300 s and is answered; in
SERVICE_AWAKE it restarts the timer; in RUN and PARKING it is refused, and so is a SLEEP. A SLEEP or the
timer's end in SERVICE_AWAKE, and in PARKING the end of the parking checkpoint with no plan image being
stored, enter PARKED: the lists are emptied, the reads discarded and a transfer abandoned. The Alert List of
the wake holds the conditions that stand (R82, R133, R145), and every block has the settings of a wake, as a
key-on from PARKED gives them (R91, R113, R148). That the slew angle is 0 before the index (log 4),
that a discarded region holds no bytes and the checksum 0 (log 18), and that timers which do not run stand at
0 (log 32), are the model's choices. -/
def Obligations.WakeAndSleep : Prop :=
  ∀ (s : State) (f : Frame),
    (s.power = .parked → s.ports.powertrain.bus = .onBus → f.port = .powertrain → f.src = Party.node .gateway →
      f.dest = partNode → f.data = [] →
      ∃ t, exec (.wake f) s = .next t ∧ t.power = .serviceAwake ∧ t.ctrl = { s.ctrl with awakeTimer := 300000 } ∧
        t.pins = s.pins ∧ WakeSettings s t ∧ t.econ.stopCopy = false ∧ t.caps.sending = false ∧
        Answered t .gateway .wake .done 0 ∧
        ∀ q, ∀ e ∈ (t.ports.get q).list,
          e.kind = .reqResult ∨ (e.kind = .planWanted ∧ s.plan.startPending = true)) ∧
    (Delivered s .wake f .gateway →
      (s.power = .serviceAwake →
        ∃ t, exec (.wake f) s = .next t ∧ t.ctrl = { s.ctrl with awakeTimer := 300000 } ∧
          Taken s t .gateway .wake .done 0 [.ctrl] [] []) ∧
      (s.power ≠ .serviceAwake →
        ∃ t, exec (.wake f) s = .next t ∧ RefusedWith s t .gateway .wake .refusedState)) ∧
    (Delivered s .sleep f .gateway → s.power ≠ .serviceAwake →
      ∃ t, exec (.sleep f) s = .next t ∧ RefusedWith s t .gateway .sleep .refusedState) ∧
    (∀ c : Instr,
      ((c = .sleep f ∧ s.power = .serviceAwake ∧ Delivered s .sleep f .gateway) ∨
        (c = .serviceAwakeTimerExpiry ∧ s.power = .serviceAwake ∧ s.ctrl.awakeTimer = 0) ∨
        (c = .enterParked ∧ s.power = .parking ∧ s.ctrl.parkingCkpt = false ∧ s.plan.image ≠ .storing)) →
      s.caps.sending = false →
      ∃ t, exec c s = .next t ∧ t.power = .parked ∧ t.ports.implement.list = [] ∧ t.ports.powertrain.list = [] ∧
        t.reads = noReads ∧ t.ctrl = { s.ctrl with awakeTimer := 0 } ∧ SameBuses s t ∧
        t.links = (if c = .sleep f then heardLinks s .gateway else s.links) ∧
        (s.plan.xfer = .opened ∨ s.plan.xfer = .receiving → t.plan = { s.plan with
          staging := Seven.all emptyRegion, xfer := .idle, requestTimer := 0, inactTimer := 0 }) ∧
        (s.plan.xfer = .requested → t.plan = { s.plan with xfer := .idle, requestTimer := 0 }) ∧
        (s.plan.xfer = .idle → t.plan = s.plan) ∧
        OnlyChanges ([.power, .plan, .ctrl, .reads, .links] ++ outputs) s t ∧ AlertsKept linkCodes s t)

/-- The store port (R159, R173 to R175): CHECKPOINT_REPORT, PLAN_IMAGE_WRITE_REPORT, PENDING_CHECKPOINT_START
and PLAN_IMAGE_WRITE_START. A completed checkpoint makes its slot valid with its sequence, which becomes the
current one, and clears the accounts-lost flag with its alert (R133); a failed one leaves the slots and the
current sequence as they stood. Only the slot of the checkpoint that the freed port then starts, the one the
rule of R173 names, is marked invalid. A completed image write leaves the active plan on the chip; a failed
one leaves no image. On the freed port a waiting image write goes before a pending checkpoint, which takes its
snapshot then; in PARKING the end of the parking checkpoint, with no image being stored, parks the part. The
report of an abandoned image write is not taken; that the operand names which write is reported (log 25), that
a slot whose write failed keeps the number it last held (log 3), and that a start has a row of its own beside
the start within the report (log 17), are the model's choices. -/
def Obligations.StorePort : Prop :=
  ∀ s : State,
    (∀ (w : Writing) (completed : Bool), s.ctrl.writing = some w →
      ∃ t, exec (.checkpointReport completed) s = .next t ∧
        t.ctrl.current = (if completed then w.seq else s.ctrl.current) ∧
        t.ctrl.accountsLost = (s.ctrl.accountsLost && !completed) ∧
        t.ctrl.parkingCkpt = (s.ctrl.parkingCkpt && !w.parking) ∧
        (∀ reported : Chip,
          reported = (if completed then s.chip.setSlot w.slot (writtenSlot w.seq w.image) else s.chip) →
          (s.ctrl.imageWrite = .waiting → t.ctrl.writing = none ∧ t.ctrl.imageWrite = .onPort ∧
            t.ctrl.pendingCkpt = s.ctrl.pendingCkpt ∧ t.chip = { reported with image := none }) ∧
          (s.ctrl.imageWrite = .onPort → t.ctrl.writing = none ∧ t.ctrl.imageWrite = .onPort ∧
            t.ctrl.pendingCkpt = s.ctrl.pendingCkpt ∧ t.chip = reported) ∧
          (s.ctrl.imageWrite = .none → t.ctrl.imageWrite = .none ∧ t.ctrl.pendingCkpt = false ∧
            (s.ctrl.pendingCkpt = false → t.ctrl.writing = none ∧ t.chip = reported) ∧
            (s.ctrl.pendingCkpt = true → ∃ v,
              v = { slot := checkpointSlot reported t.ctrl.current, seq := nextSequence t.ctrl.current,
                    image := accountImage s, parking := t.ctrl.parkingCkpt } ∧
              t.ctrl.writing = some v ∧ (t.chip.slot v.slot).valid = false ∧
              (∀ k, k ≠ v.slot → t.chip.slot k = reported.slot k) ∧ t.chip.image = reported.image))) ∧
        t.power = (if s.power = .parking ∧ (s.ctrl.parkingCkpt = false ∨ w.parking = true) ∧
          s.plan.image ≠ .storing then .parked else s.power) ∧
        (t.power = s.power → t.plan = s.plan ∧ t.reads = s.reads) ∧
        OnlyChanges ([.power, .chip, .ctrl, .plan, .reads] ++ outputs) s t ∧ SameBuses s t ∧
        AlertsKept [.storeAccountsLost] s t ∧ AlertsFollow [.storeAccountsLost] s t) ∧
    (∀ completed : Bool, s.ctrl.imageWrite = .onPort → s.ctrl.writing = none →
      ∃ t, exec (.planImageWriteReport (if completed then .written else .failed)) s = .next t ∧
        t.ctrl.imageWrite = .none ∧
        t.plan.image = (if completed then .valid else .absent) ∧
        t.chip.image = (if completed then s.plan.active.map imageOf else none) ∧
        (s.ctrl.pendingCkpt = false → t.ctrl.writing = none ∧ t.chip.slotA = s.chip.slotA ∧
          t.chip.slotB = s.chip.slotB) ∧
        (s.ctrl.pendingCkpt = true → ∃ v, t.ctrl.writing = some v ∧ v.image = accountImage s ∧
          v.seq = nextSequence s.ctrl.current ∧ v.slot = checkpointSlot s.chip s.ctrl.current ∧
          v.parking = s.ctrl.parkingCkpt ∧ (t.chip.slot v.slot).valid = false ∧
          (∀ k, k ≠ v.slot → t.chip.slot k = s.chip.slot k) ∧ t.ctrl.pendingCkpt = false) ∧
        t.ctrl.parkingCkpt = s.ctrl.parkingCkpt ∧ t.ctrl.current = s.ctrl.current ∧
        t.ctrl.accountsLost = s.ctrl.accountsLost ∧
        t.power = (if s.power = .parking ∧ s.ctrl.parkingCkpt = false then .parked else s.power) ∧
        t.plan.active = s.plan.active ∧
        (t.power = s.power → t.plan = { s.plan with image := t.plan.image } ∧ t.reads = s.reads) ∧
        OnlyChanges ([.power, .chip, .ctrl, .plan, .reads] ++ outputs) s t ∧ SameBuses s t ∧
        AlertsKept [] s t) ∧
    exec (.planImageWriteReport .abandoned) s = .next s ∧
    (s.ctrl.pendingCkpt = true → s.ctrl.writing = none → s.ctrl.imageWrite = .none →
      ∃ t, exec .pendingCheckpointStart s = .next t ∧ CheckpointAsked s t ∧ Keeps [.chip, .ctrl] [] [] s t) ∧
    (s.ctrl.imageWrite = .waiting → s.ctrl.writing = none →
      ∃ t, exec .planImageWriteStart s = .next t ∧ t.ctrl = { s.ctrl with imageWrite := .onPort } ∧
        t.chip = { s.chip with image := none } ∧ Keeps [.chip, .ctrl] [] [] s t)

end Statements
end

