-- ==== Sys2Proof/Laws/State.lean ====
section
/-! SUPPORT. Reading a record after an update of it: one lemma for each accessor and each update, so that no
later proof unfolds a record update. -/

namespace Sys2Proof.Machine

/-! ### Measurement records -/

@[simp] theorem Meas.joint_setJoint (m : Meas) (j : Joint) (r : JointRec) : (m.setJoint j r).joint j = r := by
  cases j <;> rfl

theorem Meas.joint_setJoint_ne (m : Meas) {i j : Joint} (r : JointRec) (h : i ≠ j) :
    (m.setJoint j r).joint i = m.joint i := by
  cases i <;> cases j <;> first | rfl | exact absurd rfl h

@[simp] theorem Meas.frame_setJoint (m : Meas) (j : Joint) (r : JointRec) : (m.setJoint j r).frame = m.frame := by
  cases j <;> rfl

@[simp] theorem Meas.slew_setJoint (m : Meas) (j : Joint) (r : JointRec) : (m.setJoint j r).slew = m.slew := by
  cases j <;> rfl

@[simp] theorem Meas.press_setJoint (m : Meas) (j : Joint) (r : JointRec) : (m.setJoint j r).press = m.press := by
  cases j <;> rfl

/-! ### Links -/

@[simp] theorem Links.get_set (l : Links) (p : Party) (r : LinkRec) : (l.set p r).get p = r := by
  cases p <;> rfl

theorem Links.get_set_ne (l : Links) {p q : Party} (r : LinkRec) (h : q ≠ p) : (l.set p r).get q = l.get q := by
  cases p <;> cases q <;> first | rfl | exact absurd rfl h

@[simp] theorem Links.set_get (l : Links) (p : Party) : l.set p (l.get p) = l := by cases p <;> rfl

@[simp] theorem Links.set_set (l : Links) (p : Party) (r q : LinkRec) : (l.set p r).set p q = l.set p q := by
  cases p <;> rfl

/-! ### Ports -/

@[simp] theorem Ports.get_set (x : Ports) (p : Port) (r : PortRec) : (x.set p r).get p = r := by
  cases p <;> rfl

theorem Ports.get_set_ne (x : Ports) {p q : Port} (r : PortRec) (h : q ≠ p) : (x.set p r).get q = x.get q := by
  cases p <;> cases q <;> first | rfl | exact absurd rfl h

@[simp] theorem Ports.set_get (x : Ports) (p : Port) : x.set p (x.get p) = x := by cases p <;> rfl

@[simp] theorem Ports.set_set (x : Ports) (p : Port) (r q : PortRec) : (x.set p r).set p q = x.set p q := by
  cases p <;> rfl

@[simp] theorem Ports.get_updList (x : Ports) (p : Port) (f : List TxEntry → List TxEntry) :
    (x.updList p f).get p = { x.get p with list := f (x.get p).list } := by
  simp [Ports.updList]

theorem Ports.get_updList_ne (x : Ports) {p q : Port} (f : List TxEntry → List TxEntry) (h : q ≠ p) :
    (x.updList p f).get q = x.get q := by
  simp [Ports.updList, Ports.get_set_ne _ _ h]

@[simp] theorem Ports.bus_updList (x : Ports) (p q : Port) (f : List TxEntry → List TxEntry) :
    ((x.updList p f).get q).bus = (x.get q).bus := by
  cases p <;> cases q <;> rfl

/-! ### Reads in progress -/

@[simp] theorem Reads.get_set (r : Reads) (q : Reader) (x : Option ReadProg) : (r.set q x).get q = x := by
  cases q <;> rfl

theorem Reads.get_set_ne (r : Reads) {p q : Reader} (x : Option ReadProg) (h : q ≠ p) :
    (r.set p x).get q = r.get q := by
  cases p <;> cases q <;> first | rfl | exact absurd rfl h

/-! ### The store chip -/

@[simp] theorem Chip.slot_setSlot (c : Chip) (k : SlotId) (r : AccountSlot) : (c.setSlot k r).slot k = r := by
  cases k <;> rfl

theorem Chip.slot_setSlot_ne (c : Chip) {k m : SlotId} (r : AccountSlot) (h : m ≠ k) :
    (c.setSlot k r).slot m = c.slot m := by
  cases k <;> cases m <;> first | rfl | exact absurd rfl h

@[simp] theorem Chip.image_setSlot (c : Chip) (k : SlotId) (r : AccountSlot) :
    (c.setSlot k r).image = c.image := by
  cases k <;> rfl

@[simp] theorem writtenSlot_seq (n : Nat) (a : AccountImage) : (writtenSlot n a).seq = n := rfl

@[simp] theorem writtenSlot_image (n : Nat) (a : AccountImage) : (writtenSlot n a).image = a := rfl

@[simp] theorem writtenSlot_valid (n : Nat) (a : AccountImage) : (writtenSlot n a).valid = true := by
  simp [AccountSlot.valid, writtenSlot]

@[simp] theorem AccountSlot.marked_seq (k : AccountSlot) : k.marked.seq = k.seq := rfl

@[simp] theorem AccountSlot.marked_image (k : AccountSlot) : k.marked.image = k.image := rfl

@[simp] theorem AccountSlot.marked_valid (k : AccountSlot) : k.marked.valid = false := rfl

/-! ### Functions and sections -/

@[simp] theorem Eight.get_all {α : Type} (a : α) (f : Func) : (Eight.all a).get f = a := by cases f <;> rfl

@[simp] theorem Eight.get_tabulate {α : Type} (g : Func → α) (f : Func) : (Eight.tabulate g).get f = g f := by
  cases f <;> rfl

@[simp] theorem Row.get_setFunc (r : Row) (f : Func) (n : Nat) : (r.setFunc f n).get f = n := by
  cases f <;> rfl

theorem Row.get_setFunc_ne (r : Row) {f g : Func} (n : Nat) (h : g ≠ f) : (r.setFunc f n).get g = r.get g := by
  cases f <;> cases g <;> first | rfl | exact absurd rfl h

@[simp] theorem Seven.get_set {α : Type} (r : Seven α) (k : Section) (a : α) : (r.set k a).get k = a := by
  cases k <;> rfl

theorem Seven.get_set_ne {α : Type} (r : Seven α) {k m : Section} (a : α) (h : m ≠ k) :
    (r.set k a).get m = r.get m := by
  cases k <;> cases m <;> first | rfl | exact absurd rfl h

@[simp] theorem Seven.get_all {α : Type} (a : α) (k : Section) : (Seven.all a).get k = a := by cases k <;> rfl

@[simp] theorem Seven.get_map {α β : Type} (f : α → β) (r : Seven α) (k : Section) :
    (r.map f).get k = f (r.get k) := by
  cases k <;> rfl

/-! ### Nodes -/

@[simp] theorem Party.ofNode_node (p : Party) : Party.ofNode p.node = some p := by cases p <;> rfl

theorem Party.node_injective {p q : Party} (h : p.node = q.node) : p = q := by
  have := congrArg Party.ofNode h
  simpa using this

theorem Party.ofNode_eq_some {n : Byte} {p : Party} (h : Party.ofNode n = some p) : n = p.node := by
  have := List.find?_some h
  simpa using (beq_iff_eq.mp this).symm

end Sys2Proof.Machine
end

