-- ==== Sys2Proof/Laws/Lists.lean ====
section
/-! SUPPORT. Ordered insertion and the transmit lists: what a placing puts on a port, and what it leaves. -/

namespace Sys2Proof.Machine

/-! ### Ordered insertion -/

@[simp] theorem mem_insertSorted {α : Type} (before : α → α → Bool) (x y : α) (l : List α) :
    y ∈ insertSorted before x l ↔ y = x ∨ y ∈ l := by
  induction l with
  | nil => simp [insertSorted]
  | cons z zs ih =>
    simp only [insertSorted]
    split
    · simp
    · simp [ih]; tauto

@[simp] theorem length_insertSorted {α : Type} (before : α → α → Bool) (x : α) (l : List α) :
    (insertSorted before x l).length = l.length + 1 := by
  induction l with
  | nil => rfl
  | cons z zs ih => simp only [insertSorted]; split <;> simp [ih]

/-- Insertion into a list in a transitive order, of an element that stands before or after each, keeps the
order. -/
theorem pairwise_insertSorted {α : Type} {before : α → α → Bool}
    (trans : ∀ a b c, before a b = true → before b c = true → before a c = true) {x : α} {l : List α}
    (total : ∀ y ∈ l, before x y = true ∨ before y x = true)
    (h : l.Pairwise fun a b => before a b = true) :
    (insertSorted before x l).Pairwise fun a b => before a b = true := by
  induction l with
  | nil => simp [insertSorted]
  | cons z zs ih =>
    simp only [insertSorted]
    rw [List.pairwise_cons] at h
    split
    · rename_i hz
      refine List.pairwise_cons.mpr ⟨?_, List.pairwise_cons.mpr h⟩
      intro y hy
      rcases List.mem_cons.mp hy with rfl | hy
      · exact hz
      · exact trans _ _ _ hz (h.1 y hy)
    · rename_i hz
      refine List.pairwise_cons.mpr ⟨?_, ih (fun y hy => total y (List.mem_cons_of_mem _ hy)) h.2⟩
      intro y hy
      rcases (mem_insertSorted before x y zs).mp hy with rfl | hy
      · exact (total z List.mem_cons_self).resolve_left hz
      · exact h.1 y hy

/-! ### Transmit lists -/

theorem TxEntry.is_iff (e : TxEntry) (k : TxKind) (d : Byte) : e.is k d = true ↔ e.kind = k ∧ e.dest = d := by
  simp [TxEntry.is]

/-- A placing puts its message on the list. -/
theorem mem_placeEntry_self (l : List TxEntry) (e : TxEntry) : e ∈ placeEntry l e := by
  unfold placeEntry
  split
  · rename_i h
    obtain ⟨o, ho, hk⟩ := List.any_eq_true.mp h
    refine List.mem_map.mpr ⟨o, ho, ?_⟩
    rw [if_pos hk]
    obtain ⟨h1, h2⟩ := (o.is_iff _ _).mp hk
    cases o; cases e; simp_all
  · simp

/-- A placing leaves the messages of other kinds and destinations as they stand. -/
theorem mem_placeEntry_other {l : List TxEntry} {e o : TxEntry} (h : ¬(o.kind = e.kind ∧ o.dest = e.dest)) :
    o ∈ placeEntry l e ↔ o ∈ l := by
  have ho : o.is e.kind e.dest = false := by
    rw [Bool.eq_false_iff, ne_eq, TxEntry.is_iff]; exact h
  unfold placeEntry
  split
  · constructor
    · intro hm
      obtain ⟨x, hx, rfl⟩ := List.mem_map.mp hm
      by_cases hk : x.is e.kind e.dest = true
      · rw [if_pos hk] at ho
        rw [show ({ x with data := e.data } : TxEntry).is e.kind e.dest = x.is e.kind e.dest from rfl] at ho
        rw [hk] at ho; cases ho
      · rwa [if_neg hk]
    · intro hm
      exact List.mem_map.mpr ⟨o, hm, by rw [if_neg (by rw [ho]; decide)]⟩
  · rw [mem_insertSorted]
    constructor
    · rintro (rfl | hm)
      · exact absurd ⟨rfl, rfl⟩ h
      · exact hm
    · exact Or.inr

theorem mem_removeEntry (l : List TxEntry) (k : TxKind) (d : Byte) (o : TxEntry) :
    o ∈ removeEntry l k d ↔ o ∈ l ∧ ¬(o.kind = k ∧ o.dest = d) := by
  unfold removeEntry
  rw [List.mem_filter]
  simp only [Bool.not_eq_true', Bool.eq_false_iff, ne_eq, TxEntry.is_iff]

/-- A message placed waits. -/
theorem State.waits_place (s : State) (k : TxKind) (p : Party) (d : List Byte) : Waits (s.place k p d) k p d := by
  simp only [Waits, State.place, Ports.get_updList]
  exact mem_placeEntry_self _ _

/-- A placing leaves the waiting messages of other kinds and parties. -/
theorem State.waits_place_other (s : State) {k k' : TxKind} {p p' : Party} {d d' : List Byte}
    (h : ¬(k' = k ∧ p' = p)) : Waits (s.place k p d) k' p' d' ↔ Waits s k' p' d' := by
  simp only [Waits, State.place]
  by_cases hp : p'.port = p.port
  · rw [hp, Ports.get_updList]
    exact mem_placeEntry_other fun hk => h ⟨hk.1, Party.node_injective hk.2⟩
  · rw [Ports.get_updList_ne _ _ hp]

end Sys2Proof.Machine
end

