-- ==== Sys2Proof/Laws/Finish.lean ====
section
/-! SUPPORT. The frame of the end of an event: the fields it may change, as `OnlyChanges`, the echo record it
keeps, the offer it leaves current, and the messages it leaves waiting. -/

namespace Sys2Proof.Machine

/-! ### The frame relation -/

theorem OnlyChanges.refl (l : List Block) (s : State) : OnlyChanges l s s := by
  intro b _; cases b <;> rfl

theorem OnlyChanges.trans {l : List Block} {s t u : State} (h : OnlyChanges l s t) (k : OnlyChanges l t u) :
    OnlyChanges l s u := by
  intro b hb
  have h1 := h b hb
  have h2 := k b hb
  cases b <;> exact h2.trans h1

theorem OnlyChanges.mono {l m : List Block} {s t : State} (h : OnlyChanges l s t) (sub : ∀ b ∈ l, b ∈ m) :
    OnlyChanges m s t :=
  fun b hb => h b fun hl => hb (sub b hl)

theorem OnlyChanges.when {l : List Block} {s : State} {f : State → State} (c : Bool)
    (h : OnlyChanges l s (f s)) : OnlyChanges l s (s.when c f) := by
  cases c
  · exact OnlyChanges.refl l s
  · exact h

/-! ### The passes at the end of an event -/

theorem State.only_place (s : State) (k : TxKind) (p : Party) (d : List Byte) :
    OnlyChanges [.ports] s (s.place k p d) := by
  intro b hb; cases b <;> first | rfl | exact absurd (by decide) hb

theorem State.only_placeGrade (s : State) : OnlyChanges [.ports, .periods] s s.placeGrade := by
  intro b hb; cases b <;> first | rfl | exact absurd (by decide) hb

theorem State.only_placeEnvelope (s : State) : OnlyChanges [.ports, .periods] s s.placeEnvelope := by
  intro b hb; cases b <;> first | rfl | exact absurd (by decide) hb

theorem State.only_placeCapSet (s : State) : OnlyChanges [.ports, .periods, .caps] s s.placeCapSet := by
  intro b hb; cases b <;> first | rfl | exact absurd (by decide) hb

theorem State.only_placeStep (s : State) : OnlyChanges [.ports, .periods, .step] s s.placeStep := by
  intro b hb; cases b <;> first | rfl | exact absurd (by decide) hb

theorem State.only_placeEcon (s : State) : OnlyChanges [.ports, .periods] s s.placeEcon := by
  intro b hb; cases b <;> first | rfl | exact absurd (by decide) hb

theorem State.only_placeService (s : State) : OnlyChanges [.ports] s s.placeService :=
  State.only_place _ _ _ _

theorem State.only_placeOffer (s : State) : OnlyChanges [.ports, .alerts] s s.placeOffer := by
  intro b hb; cases b <;> first | rfl | exact absurd (by decide) hb

theorem Ev.only_passRows (e : Ev) : OnlyChanges [.caps] e.st e.passRows.st := by
  unfold Ev.passRows
  split
  · intro b hb; cases b <;> first | rfl | exact absurd (by decide) hb
  · split
    · exact OnlyChanges.refl _ _
    · intro b hb; cases b <;> first | rfl | exact absurd (by decide) hb

theorem Ev.only_passServiceCap (e : Ev) : OnlyChanges [.step] e.st e.passServiceCap.st := by
  unfold Ev.passServiceCap
  split
  · intro b hb; cases b <;> first | rfl | exact absurd (by decide) hb
  · exact OnlyChanges.refl _ _

theorem Ev.only_passStep (e : Ev) : OnlyChanges [.step] e.st e.passStep.st := by
  unfold Ev.passStep
  split
  · intro b hb; cases b <;> first | rfl | exact absurd (by decide) hb
  · exact OnlyChanges.refl _ _

theorem Ev.only_passCharge (e : Ev) : OnlyChanges [.charge] e.st e.passCharge.st := by
  unfold Ev.passCharge
  split
  · intro b hb; cases b <;> first | rfl | exact absurd (by decide) hb
  · exact OnlyChanges.refl _ _

theorem Ev.only_passMessages (e : Ev) : OnlyChanges [.ports, .periods, .caps, .step] e.st e.passMessages.st := by
  have h1 (s : State) := (State.only_placeCapSet s).mono (m := [.ports, .periods, .caps, .step]) (by decide)
  have h2 (s : State) := (State.only_placeGrade s).mono (m := [.ports, .periods, .caps, .step]) (by decide)
  have h3 (s : State) := (State.only_placeEnvelope s).mono (m := [.ports, .periods, .caps, .step]) (by decide)
  have h4 (s : State) := (State.only_placeStep s).mono (m := [.ports, .periods, .caps, .step]) (by decide)
  have h5 (s : State) := (State.only_placeEcon s).mono (m := [.ports, .periods, .caps, .step]) (by decide)
  have h6 (s : State) := (State.only_placeService s).mono (m := [.ports, .periods, .caps, .step]) (by decide)
  exact (((((OnlyChanges.when _ (h1 _)).trans (OnlyChanges.when _ (h2 _))).trans
    (OnlyChanges.when _ (h3 _))).trans (OnlyChanges.when _ (h4 _))).trans
    (OnlyChanges.when _ (h5 _))).trans (OnlyChanges.when _ (h6 _))

theorem Ev.only_takeAlerts (e : Ev) : OnlyChanges [.alerts, .orders] e.st e.takeAlerts.st := by
  intro b hb; cases b <;> first | rfl | exact absurd (by decide) hb

theorem Ev.only_passOffer (e : Ev) : OnlyChanges [.ports, .alerts] e.st e.passOffer.st :=
  OnlyChanges.when _ (State.only_placeOffer _)

/-- The end of an event changes the fields of `outputs` alone. -/
theorem Ev.only_finish (e : Ev) : OnlyChanges outputs e.st e.finish := by
  unfold Ev.finish
  refine OnlyChanges.trans ?_ ((Ev.only_passOffer _).mono (by decide))
  refine OnlyChanges.trans ?_ ((Ev.only_takeAlerts _).mono (by decide))
  refine OnlyChanges.trans ?_ ((Ev.only_passMessages _).mono (by decide))
  refine OnlyChanges.trans ?_ ((Ev.only_passCharge _).mono (by decide))
  refine OnlyChanges.trans ?_ ((Ev.only_passStep _).mono (by decide))
  refine OnlyChanges.trans ?_ ((Ev.only_passServiceCap _).mono (by decide))
  exact (Ev.only_passRows _).mono (by decide)

@[simp] theorem Ev.finish_power (e : Ev) : e.finish.power = e.st.power := e.only_finish .power (by decide)
@[simp] theorem Ev.finish_pins (e : Ev) : e.finish.pins = e.st.pins := e.only_finish .pins (by decide)
@[simp] theorem Ev.finish_chip (e : Ev) : e.finish.chip = e.st.chip := e.only_finish .chip (by decide)
@[simp] theorem Ev.finish_ctrl (e : Ev) : e.finish.ctrl = e.st.ctrl := e.only_finish .ctrl (by decide)
@[simp] theorem Ev.finish_plan (e : Ev) : e.finish.plan = e.st.plan := e.only_finish .plan (by decide)
@[simp] theorem Ev.finish_inForce (e : Ev) : e.finish.inForce = e.st.inForce :=
  e.only_finish .inForce (by decide)
@[simp] theorem Ev.finish_meas (e : Ev) : e.finish.meas = e.st.meas := e.only_finish .meas (by decide)
@[simp] theorem Ev.finish_pose (e : Ev) : e.finish.pose = e.st.pose := e.only_finish .pose (by decide)
@[simp] theorem Ev.finish_cycle (e : Ev) : e.finish.cycle = e.st.cycle := e.only_finish .cycle (by decide)
@[simp] theorem Ev.finish_grade (e : Ev) : e.finish.grade = e.st.grade := e.only_finish .grade (by decide)
@[simp] theorem Ev.finish_env (e : Ev) : e.finish.env = e.st.env := e.only_finish .env (by decide)
@[simp] theorem Ev.finish_econ (e : Ev) : e.finish.econ = e.st.econ := e.only_finish .econ (by decide)
@[simp] theorem Ev.finish_svc (e : Ev) : e.finish.svc = e.st.svc := e.only_finish .svc (by decide)
@[simp] theorem Ev.finish_links (e : Ev) : e.finish.links = e.st.links := e.only_finish .links (by decide)
@[simp] theorem Ev.finish_fault (e : Ev) : e.finish.fault = e.st.fault := e.only_finish .fault (by decide)
@[simp] theorem Ev.finish_reads (e : Ev) : e.finish.reads = e.st.reads := e.only_finish .reads (by decide)
@[simp] theorem Ev.finish_pending (e : Ev) : e.finish.pending = e.st.pending :=
  e.only_finish .pending (by decide)

/-! ### The echo record and the offer at the end of an event -/

theorem EchoKept.refl (s : State) : EchoKept s s := ⟨rfl, rfl, rfl, rfl, rfl⟩

theorem EchoKept.of_caps {s t : State} (h : t.caps = s.caps) : EchoKept s t := by
  unfold EchoKept; rw [h]; exact ⟨rfl, rfl, rfl, rfl, rfl⟩

theorem EchoKept.trans {s t u : State} (h : EchoKept s t) (k : EchoKept t u) : EchoKept s u :=
  ⟨k.1.trans h.1, k.2.1.trans h.2.1, k.2.2.1.trans h.2.2.1, k.2.2.2.1.trans h.2.2.2.1,
    k.2.2.2.2.trans h.2.2.2.2⟩

theorem EchoKept.when {s : State} {f : State → State} (c : Bool) (h : EchoKept s (f s)) :
    EchoKept s (s.when c f) := by
  cases c
  · exact EchoKept.refl s
  · exact h

theorem Ev.echo_passRows (e : Ev) : EchoKept e.st e.passRows.st := by
  unfold Ev.passRows
  split
  · exact ⟨rfl, rfl, rfl, rfl, rfl⟩
  · split
    · exact EchoKept.refl _
    · exact ⟨rfl, rfl, rfl, rfl, rfl⟩

theorem Ev.echo_passMessages (e : Ev) : EchoKept e.st e.passMessages.st := by
  have hk {f : State → State} {c : Bool} (s : State) (h : ∀ s, EchoKept s (f s)) : EchoKept s (s.when c f) :=
    EchoKept.when c (h s)
  unfold Ev.passMessages
  refine EchoKept.trans ?_ (hk _ fun _ => ⟨rfl, rfl, rfl, rfl, rfl⟩)
  refine EchoKept.trans ?_ (hk _ fun _ => ⟨rfl, rfl, rfl, rfl, rfl⟩)
  refine EchoKept.trans ?_ (hk _ fun _ => ⟨rfl, rfl, rfl, rfl, rfl⟩)
  refine EchoKept.trans ?_ (hk _ fun _ => ⟨rfl, rfl, rfl, rfl, rfl⟩)
  refine EchoKept.trans ?_ (hk _ fun _ => ⟨rfl, rfl, rfl, rfl, rfl⟩)
  exact hk _ fun _ => ⟨rfl, rfl, rfl, rfl, rfl⟩

/-- The end of an event leaves the echo record as it stands. -/
theorem Ev.echo_finish (e : Ev) : EchoKept e.st e.finish := by
  unfold Ev.finish
  refine EchoKept.trans ?_ (EchoKept.of_caps (Ev.only_passOffer _ .caps (by decide)))
  refine EchoKept.trans ?_ (EchoKept.of_caps (Ev.only_takeAlerts _ .caps (by decide)))
  refine EchoKept.trans ?_ (Ev.echo_passMessages _)
  refine EchoKept.trans ?_ (EchoKept.of_caps (Ev.only_passCharge _ .caps (by decide)))
  refine EchoKept.trans ?_ (EchoKept.of_caps (Ev.only_passStep _ .caps (by decide)))
  refine EchoKept.trans ?_ (EchoKept.of_caps (Ev.only_passServiceCap _ .caps (by decide)))
  exact Ev.echo_passRows e

/-- At the end of an event the offer placed last is the one the Alert List gives. -/
theorem Ev.offer_passOffer (e : Ev) : OfferCurrent e.passOffer.st := by
  intro hrun
  have hp : e.st.power = .run := (e.only_passOffer .power (by decide)).symm.trans hrun
  cases hd : e.alertOfferDue
  · have hs : e.passOffer.st = e.st := by simp [Ev.passOffer, hd, State.when, Ev.upd]
    rw [hs]
    simp only [Ev.alertOfferDue, Bool.or_eq_false_iff, bne_eq_false_iff_eq] at hd
    exact hd.1.1.2
  · have hs : e.passOffer.st = e.st.placeOffer := by simp [Ev.passOffer, hd, hp, State.when, Ev.upd]
    rw [hs]; rfl

/-! ### Messages that the end of an event leaves waiting -/

theorem Waits.when {s : State} {f : State → State} {k : TxKind} {p : Party} {d : List Byte} (c : Bool)
    (h : Waits (f s) k p d ↔ Waits s k p d) : Waits (s.when c f) k p d ↔ Waits s k p d := by
  cases c
  · exact Iff.rfl
  · exact h

theorem Waits.of_ports {s t : State} (h : t.ports = s.ports) (k : TxKind) (p : Party) (d : List Byte) :
    Waits t k p d ↔ Waits s k p d := by
  unfold Waits; rw [h]

/-- The end of an event leaves the other waiting messages as they stand. -/
theorem Ev.waits_finish (e : Ev) {k : TxKind} (hk : atEventEnd k = false) (p : Party) (d : List Byte) :
    Waits e.finish k p d ↔ Waits e.st k p d := by
  have ne {k' : TxKind} {p' : Party} (h : atEventEnd k' = true) : ¬(k = k' ∧ p = p') := by
    rintro ⟨rfl, -⟩; rw [hk] at h; cases h
  have hp (s : State) {k' : TxKind} {p' : Party} {d' : List Byte} (h : atEventEnd k' = true) :
      Waits (s.place k' p' d') k p d ↔ Waits s k p d := State.waits_place_other s (ne h)
  have hm (e : Ev) : Waits e.passMessages.st k p d ↔ Waits e.st k p d := by
    unfold Ev.passMessages
    refine (Waits.when _ (hp _ rfl)).trans ?_
    refine (Waits.when _ (hp _ rfl)).trans ?_
    refine (Waits.when _ (hp _ rfl)).trans ?_
    refine (Waits.when _ (hp _ rfl)).trans ?_
    refine (Waits.when _ (hp _ rfl)).trans ?_
    exact Waits.when _ (hp _ rfl)
  unfold Ev.finish
  refine (Waits.when _ (hp _ rfl)).trans ?_
  refine (Waits.of_ports (Ev.only_takeAlerts _ .ports (by decide)) k p d).trans ?_
  refine (hm _).trans ?_
  refine (Waits.of_ports (Ev.only_passCharge _ .ports (by decide)) k p d).trans ?_
  refine (Waits.of_ports (Ev.only_passStep _ .ports (by decide)) k p d).trans ?_
  refine (Waits.of_ports (Ev.only_passServiceCap _ .ports (by decide)) k p d).trans ?_
  exact Waits.of_ports (Ev.only_passRows _ .ports (by decide)) k p d

/-- A placing that is due leaves its message, whatever content it gave. -/
theorem Waits.when_self {s : State} {f : State → State} {k : TxKind} {p : Party} {d : State → List Byte} {c : Bool}
    (hc : c = true) (h : ∀ s, Waits (f s) k p (d s)) : Waits (s.when c f) k p (d s) := by
  subst hc; exact h s

/-- The messages placed at the end of an event, over the state that its hand-ons reached. -/
def Ev.handed (e : Ev) : Ev := e.passRows.passServiceCap.passStep.passCharge

/-- A placing at the end of an event that is due leaves its message waiting: another kind placed later leaves
it, and so do the alerts. -/
theorem Ev.waits_of_messages (e : Ev) {k : TxKind} {p : Party} {d : List Byte} (hk : k ≠ .alertOffer)
    (h : Waits e.handed.passMessages.st k p d) : Waits e.finish k p d := by
  refine (Waits.when _ (State.waits_place_other _ fun hh => hk hh.1)).mpr ?_
  exact (Waits.of_ports (Ev.only_takeAlerts _ .ports (by decide)) k p d).mpr h

/-- CAP_SET waits after an event in which it was due (R88). -/
theorem Ev.waits_capSet (e : Ev) (hd : e.handed.capSetDue = true) :
    Waits e.finish .capSet .valve (capSetData e.handed.st.caps.caps) := by
  refine e.waits_of_messages (by decide) ?_
  refine (Waits.when _ (State.waits_place_other _ (by decide))).mpr ?_
  refine (Waits.when _ (State.waits_place_other _ (by decide))).mpr ?_
  refine (Waits.when _ (State.waits_place_other _ (by decide))).mpr ?_
  refine (Waits.when _ (State.waits_place_other _ (by decide))).mpr ?_
  refine (Waits.when _ (State.waits_place_other _ (by decide))).mpr ?_
  exact Waits.when_self (d := fun s => capSetData s.caps.caps) hd fun s => State.waits_place _ _ _ _

/-- GRADE_STATUS waits, with the record at hand, after an event in RUN in which it was due (R50). -/
theorem Ev.waits_grade (e : Ev) (hp : e.handed.st.power = .run) (hd : e.handed.gradeDue = true) :
    Waits e.finish .gradeStatus .cab (gradeStatusData e.finish.grade) := by
  refine e.waits_of_messages (by decide) ?_
  refine (Waits.when _ (State.waits_place_other _ (by decide))).mpr ?_
  refine (Waits.when _ (State.waits_place_other _ (by decide))).mpr ?_
  refine (Waits.when _ (State.waits_place_other _ (by decide))).mpr ?_
  refine (Waits.when _ (State.waits_place_other _ (by decide))).mpr ?_
  have hg : e.finish.grade = (e.handed.st.when e.handed.capSetDue State.placeCapSet).grade := by
    rw [Ev.finish_grade, OnlyChanges.when _ (State.only_placeCapSet _) .grade (by decide)]
    refine ((Ev.only_passCharge _ .grade (by decide)).trans ?_).symm
    refine (Ev.only_passStep _ .grade (by decide)).trans ?_
    exact (Ev.only_passServiceCap _ .grade (by decide)).trans (Ev.only_passRows _ .grade (by decide))
  rw [hg]
  exact Waits.when_self (d := fun s => gradeStatusData s.grade) (by rw [hp, hd]; rfl) fun s =>
    State.waits_place _ _ _ _

/-- ALERT_OFFER waits, with the offer at hand, after an event in RUN in which it was due (R142). -/
theorem Ev.waits_offer (e : Ev) (hp : e.finish.power = .run)
    (hd : e.handed.passMessages.takeAlerts.alertOfferDue = true) :
    Waits e.finish .alertOffer .cab (alertOfferData e.finish.alerts) := by
  have hr : e.handed.passMessages.takeAlerts.st.power = .run :=
    ((Ev.only_passOffer _ .power (by decide)).symm.trans hp)
  have hs : e.finish = e.handed.passMessages.takeAlerts.st.placeOffer := by
    show (Ev.passOffer e.handed.passMessages.takeAlerts).st = _
    simp [Ev.passOffer, hd, hr, State.when, Ev.upd]
  rw [hs]
  exact State.waits_place _ _ _ _

end Sys2Proof.Machine
end

