-- ==== Sys2Proof/Laws/Events.lean ====
section
/-! SUPPORT. The frames of the shared operations of an event: hearing a link, the evaluations, handing on,
answering, the store port; and a delivered frame reaching its owner. -/

namespace Sys2Proof.Machine

/-! ### Frames of the shared operations -/

theorem Ev.only_hear (e : Ev) (p : Party) : OnlyChanges [.links, .alerts] e.st (e.hear p).st := by
  intro b hb; cases b <;> first | rfl | exact absurd (by decide) hb

theorem Ev.only_evalPose (e : Ev) : OnlyChanges [.pose] e.st e.evalPose.st := by
  intro b hb; cases b <;> first | rfl | exact absurd (by decide) hb

theorem Ev.only_evalCycle (e : Ev) : OnlyChanges [.cycle, .econ, .svc] e.st e.evalCycle.st := by
  intro b hb; cases b <;> first | rfl | exact absurd (by decide) hb

theorem Ev.only_evalGrade (e : Ev) : OnlyChanges [.grade] e.st e.evalGrade.st := by
  intro b hb; cases b <;> first | rfl | exact absurd (by decide) hb

theorem Ev.only_evalEnv (e : Ev) : OnlyChanges [.env, .econ] e.st e.evalEnv.st := by
  intro b hb; cases b <;> first | rfl | exact absurd (by decide) hb

theorem Ev.only_setSlots (e : Ev) (l : List FenceSlot) : OnlyChanges [.env] e.st (e.setSlots l).st := by
  intro b hb; cases b <;> first | rfl | exact absurd (by decide) hb

@[simp] theorem Ev.setSlots_slots (e : Ev) (l : List FenceSlot) : (e.setSlots l).st.env.slots = l := rfl

@[simp] theorem Ev.setSlots_ops (e : Ev) (l : List FenceSlot) :
    (e.setSlots l).ops = e.ops ++ (verifiedOps e.st.env.slots l).map fun op => (.envelope, op) := rfl

theorem Ev.only_settleService (e : Ev) : OnlyChanges [.svc] e.st e.settleService.st := by
  intro b hb; cases b <;> first | rfl | exact absurd (by decide) hb

theorem Ev.only_handOn (e : Ev) : OnlyChanges handOnBlocks e.st e.handOn.st := by
  have h1 (e : Ev) : OnlyChanges handOnBlocks e.st e.passPose.st := by
    unfold Ev.passPose; split
    · exact OnlyChanges.refl _ _
    · exact (Ev.only_evalPose _).mono (by decide)
  have h2 (e : Ev) : OnlyChanges handOnBlocks e.st e.passCycle.st := by
    unfold Ev.passCycle; split
    · exact (Ev.only_evalCycle _).mono (by decide)
    · exact OnlyChanges.refl _ _
  have h3 (e : Ev) : OnlyChanges handOnBlocks e.st e.passGrade.st := by
    unfold Ev.passGrade; split
    · exact (Ev.only_evalGrade _).mono (by decide)
    · exact OnlyChanges.refl _ _
  have h4 (e : Ev) : OnlyChanges handOnBlocks e.st e.passEnv.st := by
    unfold Ev.passEnv; split
    · exact (Ev.only_evalEnv _).mono (by decide)
    · exact OnlyChanges.refl _ _
  have h5 (e : Ev) : OnlyChanges handOnBlocks e.st e.passPilots.st := by
    unfold Ev.passPilots; split
    · intro b hb; cases b <;> first | rfl | exact absurd (by decide) hb
    · exact OnlyChanges.refl _ _
  have h6 (e : Ev) : OnlyChanges handOnBlocks e.st e.passHigh.st := by
    unfold Ev.passHigh; split
    · exact OnlyChanges.refl _ _
    · intro b hb; cases b <;> first | rfl | exact absurd (by decide) hb
  exact ((((((h1 e).trans (h2 _)).trans (h3 _)).trans (h4 _)).trans (h5 _)).trans (h6 _)).trans
    ((Ev.only_settleService _).mono (by decide))

theorem State.only_answer (s : State) (p : Party) (k : RxKind) (r : Result) (d : Nat) :
    OnlyChanges [.ports, .fault] s (s.answer p k r d) := by
  unfold State.answer
  intro b hb
  cases b <;> first
    | exact absurd (by decide) hb
    | (simp only [Block.same]; split <;> rfl)

theorem State.only_startCheckpoint (s : State) : OnlyChanges [.chip, .ctrl] s s.startCheckpoint := by
  intro b hb; cases b <;> first | rfl | exact absurd (by decide) hb

theorem State.only_requestCheckpoint (s : State) : OnlyChanges [.chip, .ctrl] s s.requestCheckpoint := by
  unfold State.requestCheckpoint
  split
  · exact State.only_startCheckpoint s
  · intro b hb; cases b <;> first | rfl | exact absurd (by decide) hb

/-! ### Answers -/

/-- An answer waits for its party. -/
theorem State.answered_answer (s : State) (p : Party) (k : RxKind) (r : Result) (d : Nat) :
    Answered (s.answer p k r d) p k r d := by
  have h := State.waits_place s .reqResult p (reqResultData k r d)
  unfold Answered
  refine (Waits.of_ports ?_ _ _ _).mpr h
  unfold State.answer
  simp only
  split <;> rfl

/-- An answer that is no refusal leaves the message fault record. -/
theorem State.fault_answer_done (s : State) (p : Party) (k : RxKind) {r : Result} (hr : r.isRefusal = false)
    (d : Nat) : (s.answer p k r d).fault = s.fault := by
  unfold State.answer
  simp only [hr]
  rfl

/-- A refusal is offered to the message fault record (R164). -/
theorem State.fault_answer_refused (s : State) (p : Party) (k : RxKind) {r : Result} (hr : r.isRefusal = true)
    (d : Nat) : (s.answer p k r d).fault = offerFault s.fault p k r s.svc.meters.hour := by
  unfold State.answer
  simp only [hr]
  rfl

/-- What is answered at the end of an event's body stays answered at its end. -/
theorem Ev.answered_finish {e : Ev} {p : Party} {k : RxKind} {r : Result} {d : Nat}
    (h : Answered e.st p k r d) : Answered e.finish p k r d :=
  (Ev.waits_finish e rfl p _).mpr h

/-! ### Delivered frames -/

theorem Heard.hears {s : State} {f : Frame} {p : Party} (h : Heard s f p) : s.hears f = some p := by
  obtain ⟨hw, hb, hn, hp⟩ := h
  have hl : s.power.listening = true := by rcases hw with h | h | h <;> rw [h] <;> rfl
  unfold State.hears
  rw [hl, hb, hn, Party.ofNode_node, hp]
  simp

theorem forPart_of {f : Frame} (h : f.dest = partNode ∨ f.dest = broadcastNode) : forPart f = true := by
  unfold forPart
  rcases h with h | h <;> rw [h] <;> decide

/-- A delivered sample or report is handed to its owner after its link is heard. -/
theorem receiveSample_delivered {s : State} {k : RxKind} {f : Frame} {p : Party} (hk : k.isRequest = false)
    (h : Delivered s k f p) (body : Ev → Ev) :
    receiveSample k f s body = (body ((Ev.start s).hear p)).finish := by
  obtain ⟨hh, hd, hs, hl⟩ := h
  rw [hk] at hs
  simp only [Bool.false_eq_true, if_false] at hs
  unfold receiveSample
  rw [hh.hears]
  simp only [forPart_of hd, hs, hl, beq_self_eq_true, Bool.and_self, if_true]

/-- A delivered request is handed to its owner after its link is heard and the gateway's timers are
restarted. -/
theorem receiveRequest_delivered {s : State} {k : RxKind} {f : Frame} {p : Party} (hk : k.isRequest = true)
    (h : Delivered s k f p) (body : Party → Ev → Ev) :
    receiveRequest k f s body =
      (body p (((Ev.start s).hear p).upd fun s => s.gatewayArrival k p)).finish := by
  obtain ⟨hh, hd, hs, hl⟩ := h
  rw [hk] at hs
  simp only [if_true] at hs
  have hp : (p != .sensor) = true := by
    cases p <;> first | rfl | (cases k <;> cases hs)
  unfold receiveRequest
  rw [hh.hears]
  simp only [forPart_of hd, hp, Bool.and_self, if_true, judgeRequest, hs, hl, Bool.true_eq_false, if_false]

theorem State.only_gatewayArrival (s : State) (k : RxKind) (p : Party) :
    OnlyChanges [.ctrl, .plan] s (s.gatewayArrival k p) := by
  intro b hb; cases b <;> first | rfl | exact absurd (by decide) hb

/-- The arrival of a request from another party than the gateway restarts no timer. -/
theorem State.gatewayArrival_other (s : State) (k : RxKind) {p : Party} (h : p ≠ .gateway) :
    s.gatewayArrival k p = s := by
  simp [State.gatewayArrival, h]

/-- In RUN, the arrival of a request that is none of the transfer's restarts no timer. -/
theorem State.gatewayArrival_run {s : State} {k : RxKind} (p : Party) (hw : s.power = .run)
    (hk : keepsTransfer k = false) : s.gatewayArrival k p = s := by
  unfold State.gatewayArrival
  rw [if_neg (by simp [hw]), if_neg (by simp [hk])]

end Sys2Proof.Machine
end

