-- ==== Sys2Proof/Laws/Alerts.lean ====
section
/-! SUPPORT. What a raise or a withdrawal can do to the entries of the Alert List, and the whole frame of an
event (`Keeps`) from the frames of its parts. -/

namespace Sys2Proof.Machine

/-! ### Raises and withdrawals -/

/-- The code a raise or a withdrawal carries. -/
def AlertOp.code : AlertOp → AlertCode
  | .raise c _ _ => c
  | .withdraw c _ => c

theorem AlertEntry.is_iff (e : AlertEntry) (c : AlertCode) (subj : Subject) :
    e.is c subj = true ↔ e.code = c ∧ e.subject = subj := by
  simp [AlertEntry.is]

theorem Alerts.find_code {a : Alerts} {c : AlertCode} {subj : Subject} {e : AlertEntry}
    (h : a.find c subj = some e) : e ∈ a.entries ∧ e.code = c ∧ e.subject = subj :=
  ⟨List.mem_of_find?_eq_some h,
    (AlertEntry.is_iff _ _ _).mp (List.find?_some (p := fun e : AlertEntry => e.is c subj) h)⟩

theorem mem_dropEntry {l : List AlertEntry} {c : AlertCode} {subj : Subject} {e : AlertEntry} :
    e ∈ dropEntry l c subj ↔ e ∈ l ∧ ¬(e.code = c ∧ e.subject = subj) := by
  simp only [dropEntry, List.mem_filter, Bool.not_eq_true', Bool.eq_false_iff, ne_eq, AlertEntry.is_iff]

/-- A raise leaves no entry of another code that was not there before. -/
theorem mem_raiseAlert {a : Alerts} {c : AlertCode} {subj : Subject} {p h : Nat} {e : AlertEntry}
    (he : e ∈ (raiseAlert a c subj p h).entries) : e.code = c ∨ e ∈ a.entries := by
  unfold raiseAlert at he
  split at he
  · rename_i o ho
    simp only [coalesce, mem_insertSorted, mem_dropEntry] at he
    rcases he with rfl | ⟨he, -⟩
    · exact .inl (Alerts.find_code ho).2.1
    · exact .inr he
  · split at he
    · simp only [createEntry, mem_insertSorted] at he
      rcases he with rfl | he
      · exact .inl rfl
      · exact .inr he
    · split at he
      · split at he
        · simp only [createEntry, mem_insertSorted, mem_dropEntry] at he
          rcases he with rfl | ⟨he, -⟩
          · exact .inl rfl
          · exact .inr he
        · exact .inr he
      · exact .inr he

/-- A withdrawal leaves no entry of another code that was not there before. -/
theorem mem_withdrawAlert {a : Alerts} {c : AlertCode} {subj : Subject} {e : AlertEntry}
    (he : e ∈ (withdrawAlert a c subj).entries) : e.code = c ∨ e ∈ a.entries := by
  unfold withdrawAlert at he
  split at he
  · split at he
    · simp only [List.mem_map] at he
      obtain ⟨o, ho, rfl⟩ := he
      split
      · rename_i h
        exact .inl ((AlertEntry.is_iff _ _ _).mp h).1
      · exact .inr ho
    · exact .inr (mem_dropEntry.mp he).1
  · exact .inr he

theorem mem_applyOp {h : Nat} {a : Alerts} {op : AlertOp} {e : AlertEntry}
    (he : e ∈ (applyOp h a op).entries) : e.code = op.code ∨ e ∈ a.entries := by
  cases op with
  | raise c subj p => exact mem_raiseAlert he
  | withdraw c subj => exact mem_withdrawAlert he

theorem mask_applyOp (h : Nat) (a : Alerts) (op : AlertOp) : (applyOp h a op).mask = a.mask := by
  cases op with
  | raise c subj p =>
    simp only [applyOp, raiseAlert]
    repeat' split
    all_goals rfl
  | withdraw c subj =>
    simp only [applyOp, withdrawAlert]
    repeat' split
    all_goals rfl

theorem mask_applyOps (h : Nat) (a : Alerts) (ops : List AlertOp) : (applyOps h a ops).mask = a.mask := by
  unfold applyOps
  induction ops generalizing a with
  | nil => rfl
  | cons op ops ih => rw [List.foldl_cons, ih, mask_applyOp]

/-- Raises and withdrawals leave no entry of another code than theirs that was not there before. -/
theorem mem_applyOps {h : Nat} {a : Alerts} {ops : List AlertOp} {e : AlertEntry}
    (he : e ∈ (applyOps h a ops).entries) : (∃ op ∈ ops, e.code = op.code) ∨ e ∈ a.entries := by
  unfold applyOps at he
  induction ops generalizing a with
  | nil => exact .inr he
  | cons op ops ih =>
    rcases ih he with ⟨o, ho, hc⟩ | hm
    · exact .inl ⟨o, List.mem_cons_of_mem _ ho, hc⟩
    · rcases mem_applyOp hm with hc | hm
      · exact .inl ⟨op, List.mem_cons_self, hc⟩
      · exact .inr hm

/-- Whatever order the free value picks, only operations of the event are taken. -/
theorem mem_pickOps {fuel code : Nat} {l : List (List AlertOp)} {op : AlertOp}
    (h : op ∈ pickOps fuel code l) : ∃ b ∈ l, op ∈ b := by
  induction fuel generalizing code l with
  | zero => cases h
  | succ n ih =>
    unfold pickOps at h
    split at h
    · rename_i x rest hx
      have hmem : x :: rest ∈ l := List.mem_of_getElem? hx
      rcases List.mem_cons.mp h with rfl | h
      · exact ⟨_, hmem, List.mem_cons_self⟩
      · obtain ⟨b, hb, ho⟩ := ih h
        split at hb
        · exact ⟨b, List.mem_of_mem_eraseIdx hb, ho⟩
        · rcases List.mem_or_eq_of_mem_set hb with hb | rfl
          · exact ⟨b, hb, ho⟩
          · exact ⟨_, hmem, List.mem_cons_of_mem _ ho⟩
    · cases h

theorem mem_opsInOrder {code : Nat} {l : List (List AlertOp)} {op : AlertOp} (h : op ∈ opsInOrder code l) :
    ∃ b ∈ l, op ∈ b := by
  unfold opsInOrder at h
  split at h
  · cases h
  · exact ⟨_, List.mem_cons_self, h⟩
  · exact mem_pickOps h

theorem mem_byOwner {ops : List (Owner × AlertOp)} {b : List AlertOp} {op : AlertOp} (hb : b ∈ byOwner ops)
    (h : op ∈ b) : ∃ o, (o, op) ∈ ops := by
  simp only [byOwner, List.mem_filter, List.mem_map] at hb
  obtain ⟨⟨o, -, rfl⟩, -⟩ := hb
  simp only [List.mem_map, List.mem_filter] at h
  obtain ⟨q, ⟨hq, -⟩, rfl⟩ := h
  exact ⟨q.1, hq⟩

/-! ### The end of an event -/

/-- Every raise and withdrawal handed on in an event carries one of these codes. -/
def Ev.CodesIn (e : Ev) (c : List AlertCode) : Prop := ∀ q ∈ e.ops, q.2.code ∈ c

theorem Ev.CodesIn.hand {e : Ev} {c : List AlertCode} (h : e.CodesIn c) (o : Owner) {ops : List AlertOp}
    (ho : ∀ op ∈ ops, op.code ∈ c) : (e.hand o ops).CodesIn c := by
  intro q hq
  rcases List.mem_append.mp hq with hq | hq
  · exact h q hq
  · obtain ⟨op, hop, rfl⟩ := List.mem_map.mp hq
    exact ho op hop

theorem edgeOps_code {a b : Bool} {c : AlertCode} {subj : Subject} {op : AlertOp}
    (h : op ∈ edgeOps a b c subj) : op.code = c := by
  cases a <;> cases b <;> simp [edgeOps, raiseOp] at h <;> subst h <;> rfl

theorem verifiedOps_code {l m : List FenceSlot} {op : AlertOp} (h : op ∈ verifiedOps l m) :
    op.code = .fencesUnverified :=
  edgeOps_code h

theorem encoderOps_code {r : SlewRec} {q : Status} {op : AlertOp} (h : op ∈ encoderOps r q) :
    op.code = .slewEncoderFault := by
  cases q
  · exact edgeOps_code h
  · exact List.mem_singleton.mp h ▸ rfl

@[simp] theorem AlertsKept.refl (c : List AlertCode) (s : State) : AlertsKept c s s :=
  ⟨rfl, fun _ he _ _ => he⟩

theorem AlertsKept.trans {c : List AlertCode} {s t u : State} (h : AlertsKept c s t) (k : AlertsKept c t u) :
    AlertsKept c s u :=
  ⟨k.1.trans h.1, fun e he hc hn => h.2 e (k.2 e he hc hn) hc hn⟩

theorem AlertsKept.mono {c d : List AlertCode} {s t : State} (h : AlertsKept c s t) (sub : ∀ x ∈ c, x ∈ d) :
    AlertsKept d s t :=
  ⟨h.1, fun e he hd hn => h.2 e he (fun hc => hd (sub _ hc)) hn⟩

theorem AlertsKept.of_eq {c : List AlertCode} {s t : State} (h : t.alerts = s.alerts) : AlertsKept c s t := by
  unfold AlertsKept; rw [h]; exact ⟨rfl, fun _ he _ _ => he⟩

theorem Ev.alerts_finish (e : Ev) :
    e.finish.alerts.mask = e.st.alerts.mask ∧
      ∀ x ∈ e.finish.alerts.entries, (∃ q ∈ e.ops, x.code = q.2.code) ∨ x.code ∈ endCodes ∨
        x ∈ e.st.alerts.entries := by
  have hs : (e.passRows.passServiceCap.passStep.passCharge.passMessages).st.alerts = e.st.alerts := by
    refine (Ev.only_passMessages _ .alerts (by decide)).trans ?_
    refine (Ev.only_passCharge _ .alerts (by decide)).trans ?_
    refine (Ev.only_passStep _ .alerts (by decide)).trans ?_
    refine (Ev.only_passServiceCap _ .alerts (by decide)).trans ?_
    exact Ev.only_passRows _ .alerts (by decide)
  have hops : ∀ q ∈ (e.passRows.passServiceCap.passStep.passCharge.passMessages).ops,
      q ∈ e.ops ∨ q.2.code ∈ endCodes := by
    intro q hq
    have h1 : e.passRows.ops = e.ops := by
      unfold Ev.passRows
      split
      · rfl
      · split <;> rfl
    have h2 (e : Ev) : e.passServiceCap.ops = e.ops := by unfold Ev.passServiceCap; split <;> rfl
    have h4 (e : Ev) : e.passCharge.ops = e.ops := by unfold Ev.passCharge; split <;> rfl
    have h3 (e : Ev) : ∀ q ∈ e.passStep.ops, q ∈ e.ops ∨ q.2.code ∈ endCodes := by
      intro q hq
      unfold Ev.passStep at hq
      split at hq
      · rcases List.mem_append.mp hq with hq | hq
        · exact .inl hq
        · obtain ⟨op, hop, rfl⟩ := List.mem_map.mp hq
          right
          rw [edgeOps_code hop]; decide
      · exact .inl hq
    have hq' : q ∈ (e.passRows.passServiceCap.passStep.passCharge).ops := hq
    rw [h4] at hq'
    rcases h3 _ q hq' with hq | hq
    · rw [h2, h1] at hq
      exact .inl hq
    · exact .inr hq
  have hoff (s : State) (c : Bool) : (s.when c State.placeOffer).alerts.entries = s.alerts.entries ∧
      (s.when c State.placeOffer).alerts.mask = s.alerts.mask := by cases c <;> exact ⟨rfl, rfl⟩
  unfold Ev.finish
  constructor
  · refine (hoff _ _).2.trans ?_
    exact (mask_applyOps _ _ _).trans (congrArg _ hs)
  · intro x hx
    rw [show (Ev.passOffer _).st.alerts.entries = _ from (hoff _ _).1] at hx
    rcases mem_applyOps hx with ⟨op, hop, hc⟩ | hx
    · obtain ⟨b, hb, hop⟩ := mem_opsInOrder hop
      obtain ⟨o, ho⟩ := mem_byOwner hb hop
      rcases hops _ ho with ho | ho
      · exact .inl ⟨_, ho, hc⟩
      · exact .inr (.inl (hc ▸ ho))
    · right; right
      rwa [hs] at hx

/-! ### Buses and messages -/

theorem SameBuses.refl (s : State) : SameBuses s s := fun _ => ⟨rfl, rfl, rfl, rfl⟩

theorem SameBuses.trans {s t u : State} (h : SameBuses s t) (k : SameBuses t u) : SameBuses s u :=
  fun q => ⟨(k q).1.trans (h q).1, (k q).2.1.trans (h q).2.1, (k q).2.2.1.trans (h q).2.2.1,
    (k q).2.2.2.trans (h q).2.2.2⟩

theorem SameBuses.of_eq {s t : State} (h : t.ports = s.ports) : SameBuses s t := by
  intro q; unfold SameBus; rw [h]; exact ⟨rfl, rfl, rfl, rfl⟩

theorem SameBuses.place (s : State) (k : TxKind) (p : Party) (d : List Byte) : SameBuses s (s.place k p d) := by
  intro q; cases q <;> cases p <;> exact ⟨rfl, rfl, rfl, rfl⟩

theorem SameBuses.when {s : State} {f : State → State} (c : Bool) (h : SameBuses s (f s)) :
    SameBuses s (s.when c f) := by
  cases c
  · exact SameBuses.refl s
  · exact h

theorem Ev.buses_passMessages (e : Ev) : SameBuses e.st e.passMessages.st := by
  have h1 (s : State) : SameBuses s s.placeCapSet := SameBuses.place s _ _ _
  have h2 (s : State) : SameBuses s s.placeGrade := SameBuses.place s _ _ _
  have h3 (s : State) : SameBuses s s.placeEnvelope := SameBuses.place s _ _ _
  have h4 (s : State) : SameBuses s s.placeStep := SameBuses.place s _ _ _
  have h5 (s : State) : SameBuses s s.placeEcon := SameBuses.place s _ _ _
  have h6 (s : State) : SameBuses s s.placeService := SameBuses.place s _ _ _
  exact (((((SameBuses.when _ (h1 _)).trans (SameBuses.when _ (h2 _))).trans
    (SameBuses.when _ (h3 _))).trans (SameBuses.when _ (h4 _))).trans
    (SameBuses.when _ (h5 _))).trans (SameBuses.when _ (h6 _))

theorem Ev.buses_passOffer (e : Ev) : SameBuses e.st e.passOffer.st := by
  have h (s : State) : SameBuses s s.placeOffer := SameBuses.place s _ _ _
  exact SameBuses.when _ (h _)

theorem Ev.buses_finish (e : Ev) : SameBuses e.st e.finish := by
  unfold Ev.finish
  refine SameBuses.trans ?_ (Ev.buses_passOffer _)
  refine SameBuses.trans ?_ (SameBuses.of_eq (Ev.only_takeAlerts _ .ports (by decide)))
  refine SameBuses.trans (t := (e.passRows.passServiceCap.passStep.passCharge).st) ?_ ?_
  · refine SameBuses.trans ?_ (SameBuses.of_eq (Ev.only_passCharge _ .ports (by decide)))
    refine SameBuses.trans ?_ (SameBuses.of_eq (Ev.only_passStep _ .ports (by decide)))
    refine SameBuses.trans ?_ (SameBuses.of_eq (Ev.only_passServiceCap _ .ports (by decide)))
    exact SameBuses.of_eq (Ev.only_passRows _ .ports (by decide))
  · exact Ev.buses_passMessages _

theorem MessagesKept.refl (m : List (TxKind × Party)) (s : State) : MessagesKept m s s :=
  fun _ _ _ _ _ => Iff.rfl

theorem MessagesKept.trans {m : List (TxKind × Party)} {s t u : State} (h : MessagesKept m s t)
    (k : MessagesKept m t u) : MessagesKept m s u :=
  fun x p d hm he => (k x p d hm he).trans (h x p d hm he)

theorem MessagesKept.mono {m n : List (TxKind × Party)} {s t : State} (h : MessagesKept m s t)
    (sub : ∀ x ∈ m, x ∈ n) : MessagesKept n s t :=
  fun k p d hn he => h k p d (fun hm => hn (sub _ hm)) he

theorem MessagesKept.of_eq {m : List (TxKind × Party)} {s t : State} (h : t.ports = s.ports) :
    MessagesKept m s t :=
  fun k p d _ _ => Waits.of_ports h k p d

theorem MessagesKept.place (s : State) (k : TxKind) (p : Party) (d : List Byte) :
    MessagesKept [(k, p)] s (s.place k p d) := by
  intro k' p' d' hm _
  refine State.waits_place_other s ?_
  rintro ⟨rfl, rfl⟩
  exact hm (by simp)

/-! ### The frame of an event -/

theorem Keeps.trans {l : List Block} {m : List (TxKind × Party)} {c : List AlertCode} {s t u : State}
    (h : Keeps l m c s t) (k : Keeps l m c t u) : Keeps l m c s u :=
  ⟨h.1.trans k.1, h.2.1.trans k.2.1, h.2.2.1.trans k.2.2.1, h.2.2.2.trans k.2.2.2⟩

theorem Keeps.refl (l : List Block) (m : List (TxKind × Party)) (c : List AlertCode) (s : State) :
    Keeps l m c s s :=
  ⟨OnlyChanges.refl _ _, SameBuses.refl _, MessagesKept.refl _ _, AlertsKept.refl _ _⟩

/-- The frame of a change that leaves the ports and the Alert List. -/
theorem Keeps.of_only {l : List Block} {m : List (TxKind × Party)} {c : List AlertCode} {s t : State}
    (h : OnlyChanges l s t) (hp : .ports ∉ l) (ha : .alerts ∉ l) : Keeps l m c s t :=
  ⟨h.mono fun _ hb => List.mem_append_left _ hb, SameBuses.of_eq (h .ports hp),
    MessagesKept.of_eq (h .ports hp), AlertsKept.of_eq (h .alerts ha)⟩

theorem Keeps.mono {l l' : List Block} {m m' : List (TxKind × Party)} {c c' : List AlertCode} {s t : State}
    (h : Keeps l m c s t) (hl : ∀ b ∈ l, b ∈ l') (hm : ∀ x ∈ m, x ∈ m') (hc : ∀ x ∈ c, x ∈ c') :
    Keeps l' m' c' s t := by
  refine ⟨h.1.mono ?_, h.2.1, h.2.2.1.mono hm, h.2.2.2.mono hc⟩
  intro b hb
  rcases List.mem_append.mp hb with hb | hb
  · exact List.mem_append_left _ (hl b hb)
  · exact List.mem_append_right _ hb

/-- The frame of an event from the frame of its body and the codes it hands on. -/
theorem Ev.keeps_finish {l : List Block} {m : List (TxKind × Party)} {c : List AlertCode} {s : State} (e : Ev)
    (h : Keeps l m c s e.st) (hc : e.CodesIn c) : Keeps l m c s e.finish := by
  refine h.trans ⟨e.only_finish.mono fun b hb => List.mem_append_right _ hb, e.buses_finish, ?_, ?_⟩
  · intro k p d _ he
    exact e.waits_finish he p d
  · refine ⟨e.alerts_finish.1, fun x hx hn hend => ?_⟩
    rcases e.alerts_finish.2 x hx with ⟨q, hq, hqc⟩ | hx | hx
    · exact absurd (hqc ▸ hc q hq) hn
    · exact absurd hx hend
    · exact hx

theorem State.keeps_place (s : State) (k : TxKind) (p : Party) (d : List Byte) (c : List AlertCode) :
    Keeps [] [(k, p)] c s (s.place k p d) :=
  ⟨(State.only_place s k p d).mono (by decide), SameBuses.place s k p d, MessagesKept.place s k p d,
    AlertsKept.of_eq rfl⟩

/-- Hearing a link changes its record and its alerts (R167). -/
theorem Ev.keeps_hear (e : Ev) (p : Party) : Keeps [.links] [] linkCodes e.st (e.hear p).st := by
  refine ⟨(e.only_hear p).mono (by decide), SameBuses.of_eq rfl, MessagesKept.of_eq rfl, ?_⟩
  refine ⟨mask_applyOps _ _ _, fun x hx hn _ => ?_⟩
  rcases mem_applyOps hx with ⟨op, hop, hc⟩ | hx
  · refine absurd ?_ hn
    have : op.code ∈ linkCodes := by
      revert hop
      split
      · intro h; cases h
      · intro h; rw [List.mem_singleton] at h; subst h; simp [linkCodes, AlertOp.code]
      · split
        · intro h; rw [List.mem_singleton] at h; subst h; simp [linkCodes, AlertOp.code]
        · intro h; cases h
    exact hc ▸ this
  · exact hx

theorem State.keeps_answer (s : State) (p : Party) (k : RxKind) {r : Result} (hr : r.isRefusal = false)
    (d : Nat) (c : List AlertCode) : Keeps [] [(.reqResult, p)] c s (s.answer p k r d) := by
  have : s.answer p k r d = s.place .reqResult p (reqResultData k r d) := by
    unfold State.answer; simp only [hr]; rfl
  rw [this]
  exact State.keeps_place _ _ _ _ _

theorem State.keeps_refuse (s : State) (p : Party) (k : RxKind) (r : Result) (d : Nat) (c : List AlertCode) :
    Keeps [.fault] [(.reqResult, p)] c s (s.answer p k r d) := by
  have h := (State.keeps_place s .reqResult p (reqResultData k r d) c).mono (l' := [.fault])
    (m' := [(.reqResult, p)]) (c' := c) (by simp) (by simp) (by simp)
  unfold State.answer
  simp only
  split
  · exact h.trans (Keeps.of_only (by intro b hb; cases b <;> first | rfl | exact absurd (by decide) hb)
      (by decide) (by decide))
  · exact h

end Sys2Proof.Machine
end

