-- ==== Sys2Proof/Laws/PerInstr.lean ====
section
/-! SUPPORT. The family `Fits`, one lemma per command: the bytes that a well-formed command carries, in a frame
that arrives or in one that was sent, fit the data field of its port (spec/10, introduction). -/

namespace Sys2Proof.Laws

/-- The data fields a command carries, each with the port it crosses. -/
def carried : Instr → List (Port × List Byte)
  | .jointSample f | .frameSample f | .slewSample f | .pressureSample f | .engineStatus f | .valveStatus f
  | .benchmarkCapture f | .guardSet f | .fenceSet f | .fenceClear f | .fencesConfirm f | .econMode f
  | .econCap f | .siteStepCap f | .serviceDefer f | .serviceDone f | .alertTake f | .alertRelease f
  | .alertMask f | .planRequest f | .xferOpen f | .xferData f | .xferEnd f | .xferAbort f | .read f
  | .faultClear f | .wake f | .sleep f | .frameNotForPart _ f => [(f.port, f.data)]
  | .txSuccess p (some m) => [(p, m.data)]
  | .txSuccess _ none | .hundredthHourCompletion _ | .txError _ | .portRejoin _ | .keyOn | .keyOff
  | .powerLoss _ | .coldStart | .startingReadComplete | .checkpointReport _ | .planImageWriteReport _
  | .pendingCheckpointStart | .planImageWriteStart | .enterParked | .startPlanWanted | .readNextPage _
  | .jointHeldExpiry _ | .jointInvalidExpiry _ | .frameHeldExpiry | .frameInvalidExpiry | .slewExpiry
  | .abandonTimeExpiry | .idleDelayExpiry | .highPressureMinute | .gradeStatusPeriod
  | .envelopeStatusPeriod | .capSetPeriod | .stepDemandPeriod | .econStatusPeriod | .echoTimerExpiry
  | .linkSilentExpiry _ | .linkOfflineExpiry _ | .requestTimerExpiry | .inactivityTimerExpiry
  | .serviceAwakeTimerExpiry | .recessiveRunObserved _ => []

/-- What a well-formed command carries fits its port. -/
def Fits.Statement (i : Instr) : Prop :=
  i.wellFormed = true → ∀ x ∈ carried i, x.2.length ≤ x.1.maxData

/-- One arriving frame. -/
theorem fits_frame {f : Frame} (h : f.fits = true) : ∀ x ∈ [(f.port, f.data)], x.2.length ≤ x.1.maxData := by
  intro x hx
  rw [List.mem_singleton] at hx
  subst hx
  exact of_decide_eq_true h

/-- Nothing carried. -/
theorem fits_none : ∀ x ∈ ([] : List (Port × List Byte)), x.2.length ≤ x.1.maxData := by simp

theorem Fits.jointSample (f : Frame) : Fits.Statement (.jointSample f) := fits_frame

theorem Fits.frameSample (f : Frame) : Fits.Statement (.frameSample f) := fits_frame

theorem Fits.slewSample (f : Frame) : Fits.Statement (.slewSample f) := fits_frame

theorem Fits.pressureSample (f : Frame) : Fits.Statement (.pressureSample f) := fits_frame

theorem Fits.engineStatus (f : Frame) : Fits.Statement (.engineStatus f) := fits_frame

theorem Fits.valveStatus (f : Frame) : Fits.Statement (.valveStatus f) := fits_frame

theorem Fits.frameNotForPart (k : BitVec 10) (f : Frame) : Fits.Statement (.frameNotForPart k f) := fun h =>
  fits_frame (Bool.and_eq_true_iff.mp h).1

theorem Fits.benchmarkCapture (f : Frame) : Fits.Statement (.benchmarkCapture f) := fits_frame

theorem Fits.guardSet (f : Frame) : Fits.Statement (.guardSet f) := fits_frame

theorem Fits.fenceSet (f : Frame) : Fits.Statement (.fenceSet f) := fits_frame

theorem Fits.fenceClear (f : Frame) : Fits.Statement (.fenceClear f) := fits_frame

theorem Fits.fencesConfirm (f : Frame) : Fits.Statement (.fencesConfirm f) := fits_frame

theorem Fits.econMode (f : Frame) : Fits.Statement (.econMode f) := fits_frame

theorem Fits.econCap (f : Frame) : Fits.Statement (.econCap f) := fits_frame

theorem Fits.siteStepCap (f : Frame) : Fits.Statement (.siteStepCap f) := fits_frame

theorem Fits.serviceDefer (f : Frame) : Fits.Statement (.serviceDefer f) := fits_frame

theorem Fits.serviceDone (f : Frame) : Fits.Statement (.serviceDone f) := fits_frame

theorem Fits.alertTake (f : Frame) : Fits.Statement (.alertTake f) := fits_frame

theorem Fits.alertRelease (f : Frame) : Fits.Statement (.alertRelease f) := fits_frame

theorem Fits.alertMask (f : Frame) : Fits.Statement (.alertMask f) := fits_frame

theorem Fits.planRequest (f : Frame) : Fits.Statement (.planRequest f) := fits_frame

theorem Fits.xferOpen (f : Frame) : Fits.Statement (.xferOpen f) := fits_frame

theorem Fits.xferData (f : Frame) : Fits.Statement (.xferData f) := fits_frame

theorem Fits.xferEnd (f : Frame) : Fits.Statement (.xferEnd f) := fits_frame

theorem Fits.xferAbort (f : Frame) : Fits.Statement (.xferAbort f) := fits_frame

theorem Fits.read (f : Frame) : Fits.Statement (.read f) := fits_frame

theorem Fits.faultClear (f : Frame) : Fits.Statement (.faultClear f) := fits_frame

theorem Fits.wake (f : Frame) : Fits.Statement (.wake f) := fits_frame

theorem Fits.sleep (f : Frame) : Fits.Statement (.sleep f) := fits_frame

theorem Fits.txSuccess (p : Port) (m : Option SentFrame) : Fits.Statement (.txSuccess p m) := by
  cases m with
  | none => exact fun _ => fits_none
  | some m =>
    intro h x hx
    rw [carried, List.mem_singleton] at hx
    subst hx
    exact of_decide_eq_true (Bool.and_eq_true_iff.mp h).2

theorem Fits.txError (p : Port) : Fits.Statement (.txError p) := fun _ => fits_none

theorem Fits.portRejoin (p : Port) : Fits.Statement (.portRejoin p) := fun _ => fits_none

theorem Fits.keyOn : Fits.Statement .keyOn := fun _ => fits_none

theorem Fits.keyOff : Fits.Statement .keyOff := fun _ => fits_none

theorem Fits.powerLoss (c : PowerCause) : Fits.Statement (.powerLoss c) := fun _ => fits_none

theorem Fits.coldStart : Fits.Statement .coldStart := fun _ => fits_none

theorem Fits.startingReadComplete : Fits.Statement .startingReadComplete := fun _ => fits_none

theorem Fits.checkpointReport (b : Bool) : Fits.Statement (.checkpointReport b) := fun _ => fits_none

theorem Fits.planImageWriteReport (r : ImageReport) : Fits.Statement (.planImageWriteReport r) :=
  fun _ => fits_none

theorem Fits.pendingCheckpointStart : Fits.Statement .pendingCheckpointStart := fun _ => fits_none

theorem Fits.planImageWriteStart : Fits.Statement .planImageWriteStart := fun _ => fits_none

theorem Fits.enterParked : Fits.Statement .enterParked := fun _ => fits_none

theorem Fits.startPlanWanted : Fits.Statement .startPlanWanted := fun _ => fits_none

theorem Fits.readNextPage (r : Reader) : Fits.Statement (.readNextPage r) := fun _ => fits_none

theorem Fits.jointHeldExpiry (j : Joint) : Fits.Statement (.jointHeldExpiry j) := fun _ => fits_none

theorem Fits.jointInvalidExpiry (j : Joint) : Fits.Statement (.jointInvalidExpiry j) := fun _ => fits_none

theorem Fits.frameHeldExpiry : Fits.Statement .frameHeldExpiry := fun _ => fits_none

theorem Fits.frameInvalidExpiry : Fits.Statement .frameInvalidExpiry := fun _ => fits_none

theorem Fits.slewExpiry : Fits.Statement .slewExpiry := fun _ => fits_none

theorem Fits.abandonTimeExpiry : Fits.Statement .abandonTimeExpiry := fun _ => fits_none

theorem Fits.idleDelayExpiry : Fits.Statement .idleDelayExpiry := fun _ => fits_none

theorem Fits.hundredthHourCompletion (n : Nat) : Fits.Statement (.hundredthHourCompletion n) := fun _ => fits_none

theorem Fits.highPressureMinute : Fits.Statement .highPressureMinute := fun _ => fits_none

theorem Fits.gradeStatusPeriod : Fits.Statement .gradeStatusPeriod := fun _ => fits_none

theorem Fits.envelopeStatusPeriod : Fits.Statement .envelopeStatusPeriod := fun _ => fits_none

theorem Fits.capSetPeriod : Fits.Statement .capSetPeriod := fun _ => fits_none

theorem Fits.stepDemandPeriod : Fits.Statement .stepDemandPeriod := fun _ => fits_none

theorem Fits.econStatusPeriod : Fits.Statement .econStatusPeriod := fun _ => fits_none

theorem Fits.echoTimerExpiry : Fits.Statement .echoTimerExpiry := fun _ => fits_none

theorem Fits.linkSilentExpiry (l : Party) : Fits.Statement (.linkSilentExpiry l) := fun _ => fits_none

theorem Fits.linkOfflineExpiry (l : Party) : Fits.Statement (.linkOfflineExpiry l) := fun _ => fits_none

theorem Fits.requestTimerExpiry : Fits.Statement .requestTimerExpiry := fun _ => fits_none

theorem Fits.inactivityTimerExpiry : Fits.Statement .inactivityTimerExpiry := fun _ => fits_none

theorem Fits.serviceAwakeTimerExpiry : Fits.Statement .serviceAwakeTimerExpiry := fun _ => fits_none

theorem Fits.recessiveRunObserved (p : Port) : Fits.Statement (.recessiveRunObserved p) := fun _ => fits_none

end Sys2Proof.Laws
end

