-- ==== Sys2Proof/Laws/Raises.lean ====
section
/-! SUPPORT. What one raise or withdrawal of an event comes to at its end, whatever order the free value picks
for the others (R135, R136, R138, R139): `Ev.raised_finish` and `Ev.withdrawn_finish`. -/

namespace Sys2Proof.Machine

/-! ### The order taken -/

/-- The free value only reorders the raises and withdrawals of several owners. -/
theorem pickOps_perm {fuel code : Nat} {l : List (List AlertOp)} (hl : ∀ b ∈ l, b ≠ [])
    (hf : l.flatten.length = fuel) : (pickOps fuel code l).Perm l.flatten := by
  induction fuel generalizing code l with
  | zero => rw [List.length_eq_zero_iff.mp hf]; exact List.Perm.refl _
  | succ n ih =>
    have hne : l ≠ [] := by rintro rfl; simp at hf
    have hi : code % l.length < l.length := Nat.mod_lt _ (List.length_pos_iff.mpr hne)
    generalize hk : code % l.length = i at hi
    have hp : l.flatten.Perm (l[i] ++ (l.eraseIdx i).flatten) :=
      (List.getElem_cons_eraseIdx_perm hi).symm.flatten
    cases hb : l[i] with
    | nil => exact absurd hb (hl _ (List.getElem_mem hi))
    | cons x rest =>
      rw [hb] at hp
      have hget : l[i]? = some (x :: rest) := by rw [List.getElem?_eq_getElem hi, hb]
      have hs : (l.set i rest).flatten.Perm (rest ++ (l.eraseIdx i).flatten) := by
        have hi' : i < (l.set i rest).length := by simpa using hi
        have h := (List.getElem_cons_eraseIdx_perm hi').symm.flatten
        simpa [List.eraseIdx_set_eq] using h
      have hlen := hp.length_eq
      rw [pickOps, hk, hget]
      simp only
      refine List.Perm.trans ?_ hp.symm
      rw [List.cons_append]
      refine List.Perm.cons x ?_
      cases rest with
      | nil =>
        refine ih (fun b h => hl b (List.mem_of_mem_eraseIdx h)) ?_
        simp only [List.length_append, List.length_cons, List.length_nil] at hlen
        simp only [List.isEmpty_nil, if_true]
        omega
      | cons y ys =>
        simp only [List.isEmpty_cons, Bool.false_eq_true, if_false]
        refine (ih (fun b h => ?_) ?_).trans hs
        · rcases List.mem_or_eq_of_mem_set h with h | rfl
          · exact hl b h
          · exact List.cons_ne_nil _ _
        · have := hs.length_eq
          simp only [List.length_append, List.length_cons] at hlen this
          omega

theorem opsInOrder_perm {code : Nat} {l : List (List AlertOp)} (hl : ∀ b ∈ l, b ≠ []) :
    (opsInOrder code l).Perm l.flatten := by
  unfold opsInOrder
  split
  · exact List.Perm.refl _
  · simp
  · exact pickOps_perm hl rfl

/-- Gathering the raises and withdrawals by owner keeps each of them. -/
theorem byOwner_perm (ops : List (Owner × AlertOp)) : (byOwner ops).flatten.Perm (ops.map fun q => q.2) := by
  unfold byOwner
  rw [List.flatten_filter_not_isEmpty, List.perm_iff_count]
  intro a
  induction ops with
  | nil => simp
  | cons q ops ih =>
    obtain ⟨o, x⟩ := q
    simp only [List.map_cons, List.map_nil, List.flatten_cons, List.flatten_nil, List.count_append,
      List.count_nil] at ih ⊢
    cases o <;> simp +decide [List.count_cons] at ih ⊢ <;> omega

/-- Whatever order is picked, the same raises and withdrawals are taken. -/
theorem taken_perm (code : Nat) (ops : List (Owner × AlertOp)) :
    (opsInOrder code (byOwner ops)).Perm (ops.map fun q => q.2) := by
  refine (opsInOrder_perm fun b hb => ?_).trans (byOwner_perm ops)
  rintro rfl
  simp [byOwner] at hb

/-! ### One raise or withdrawal among others -/

/-- A raise or a withdrawal is of a code and subject. -/
def AlertOp.about (c : AlertCode) (subj : Subject) : AlertOp → Bool
  | .raise c' subj' _ => c' == c && subj' == subj
  | .withdraw c' subj' => c' == c && subj' == subj

theorem filter_insertSorted {α : Type} {before : α → α → Bool} {p : α → Bool} {x : α} (hx : p x = false)
    (l : List α) : (insertSorted before x l).filter p = l.filter p := by
  induction l with
  | nil => simp [insertSorted, hx]
  | cons y ys ih =>
    simp only [insertSorted]
    split
    · simp [hx]
    · simp [List.filter_cons, ih]

theorem filter_dropEntry_other {c c' : AlertCode} {subj subj' : Subject} (h : ¬(c' = c ∧ subj' = subj))
    (l : List AlertEntry) :
    (dropEntry l c' subj').filter (fun e => e.is c subj) = l.filter fun e => e.is c subj := by
  unfold dropEntry
  rw [List.filter_filter]
  refine List.filter_congr fun e _ => ?_
  cases he : e.is c subj
  · rfl
  · obtain ⟨rfl, rfl⟩ := (AlertEntry.is_iff _ _ _).mp he
    have : e.is c' subj' = false := by
      rw [Bool.eq_false_iff, ne_eq, AlertEntry.is_iff]; rintro ⟨rfl, rfl⟩; exact h ⟨rfl, rfl⟩
    simp [this]

/-- The entries of a code and subject. -/
def Alerts.of (a : Alerts) (c : AlertCode) (subj : Subject) : List AlertEntry :=
  a.entries.filter fun e => e.is c subj

theorem Alerts.find_eq (a : Alerts) (c : AlertCode) (subj : Subject) : a.find c subj = (a.of c subj).head? :=
  List.head?_filter.symm

theorem Alerts.mem_of {a : Alerts} {c : AlertCode} {subj : Subject} {e : AlertEntry} :
    e ∈ a.of c subj ↔ e ∈ a.entries ∧ e.code = c ∧ e.subject = subj := by
  simp [Alerts.of, AlertEntry.is_iff]

/-- In a list with room, a raise or a withdrawal leaves the entries of another code or subject. -/
theorem of_applyOp_other {h : Nat} {a : Alerts} {op : AlertOp} {c : AlertCode} {subj : Subject}
    (ho : op.about c subj = false) (room : a.entries.length < 24) :
    (applyOp h a op).of c subj = a.of c subj := by
  cases op with
  | raise c' subj' p =>
    have hne : ¬(c' = c ∧ subj' = subj) := by simpa [AlertOp.about] using ho
    simp only [applyOp, raiseAlert]
    split
    · rename_i o hf
      obtain ⟨-, rfl, rfl⟩ := Alerts.find_code hf
      unfold Alerts.of coalesce
      rw [filter_insertSorted, filter_dropEntry_other hne]
      simpa [AlertEntry.is] using hne
    · rw [if_pos (show a.entries.length < Config.alertEntries from room)]
      unfold Alerts.of createEntry
      rw [filter_insertSorted]
      simpa [AlertEntry.is] using hne
  | withdraw c' subj' =>
    have hne : ¬(c' = c ∧ subj' = subj) := by simpa [AlertOp.about] using ho
    simp only [applyOp, withdrawAlert]
    split
    · split
      · unfold Alerts.of
        have hm (e : AlertEntry) : (if e.is c' subj' then { e with resolved := true } else e).is c subj =
            e.is c subj := by split <;> rfl
        rw [List.filter_map, show ((fun e : AlertEntry => e.is c subj) ∘ fun o : AlertEntry =>
          if o.is c' subj' then { o with resolved := true } else o) = fun e => e.is c subj from funext hm]
        conv_rhs => rw [← List.map_id (a.entries.filter _)]
        refine List.map_congr_left fun e he => ?_
        have he' := (AlertEntry.is_iff _ _ _).mp (List.mem_filter.mp he).2
        rw [if_neg]
        · rfl
        · rw [AlertEntry.is_iff]; rintro ⟨rfl, rfl⟩; exact hne he'
      · exact filter_dropEntry_other hne _
    · rfl

/-- A raise or a withdrawal of another code or subject brings no entry of this one, in any list. -/
theorem mem_applyOp_other {h : Nat} {a : Alerts} {op : AlertOp} {e : AlertEntry}
    (ho : op.about e.code e.subject = false) (he : e ∈ (applyOp h a op).entries) : e ∈ a.entries := by
  cases op with
  | raise c' subj' p =>
    have hne : ¬(c' = e.code ∧ subj' = e.subject) := by simpa [AlertOp.about] using ho
    simp only [applyOp, raiseAlert] at he
    split at he
    · rename_i o hf
      simp only [coalesce, mem_insertSorted, mem_dropEntry] at he
      rcases he with rfl | ⟨he, -⟩
      · obtain ⟨-, hc, hs⟩ := Alerts.find_code hf
        exact absurd ⟨hc.symm, hs.symm⟩ hne
      · exact he
    · have hnew (others : List AlertEntry) (hsub : ∀ x ∈ others, x ∈ a.entries)
          (he : e ∈ (createEntry a others c' subj' p h).entries) : e ∈ a.entries := by
        simp only [createEntry, mem_insertSorted] at he
        rcases he with rfl | he
        · exact absurd ⟨rfl, rfl⟩ hne
        · exact hsub _ he
      split at he
      · exact hnew _ (fun _ h => h) he
      · split at he
        · split at he
          · exact hnew _ (fun _ h => (mem_dropEntry.mp h).1) he
          · exact he
        · exact he
  | withdraw c' subj' =>
    have hne : ¬(c' = e.code ∧ subj' = e.subject) := by simpa [AlertOp.about] using ho
    simp only [applyOp, withdrawAlert] at he
    split at he
    · split at he
      · simp only [List.mem_map] at he
        obtain ⟨o, hm, rfl⟩ := he
        by_cases hi : o.is c' subj' = true
        · rw [if_pos hi] at hne
          obtain ⟨hc, hs⟩ := (AlertEntry.is_iff _ _ _).mp hi
          exact absurd ⟨hc.symm, hs.symm⟩ hne
        · rwa [if_neg hi]
      · exact (mem_dropEntry.mp he).1
    · exact he

/-! ### The length of the list and the count of raises -/

theorem length_dropEntry_of_mem {l : List AlertEntry} {e : AlertEntry} (he : e ∈ l) :
    (dropEntry l e.code e.subject).length + 1 ≤ l.length := by
  have hlt : (dropEntry l e.code e.subject).length < l.length := by
    unfold dropEntry
    exact List.length_filter_lt_length_iff_exists.mpr ⟨e, he, by simp [AlertEntry.is]⟩
  omega

/-- Each entry that a raise adds takes a place in the order of raising. -/
theorem length_applyOp (h : Nat) (a : Alerts) (op : AlertOp) :
    a.nextSeq ≤ (applyOp h a op).nextSeq ∧
      (applyOp h a op).entries.length + a.nextSeq ≤ a.entries.length + (applyOp h a op).nextSeq := by
  cases op with
  | raise c subj p =>
    simp only [applyOp, raiseAlert]
    split
    · rename_i o hf
      have := length_dropEntry_of_mem (Alerts.find_code hf).1
      simp only [coalesce, length_insertSorted]
      omega
    · split
      · simp only [createEntry, length_insertSorted]; omega
      · split
        · split
          · have hd (v : AlertEntry) : (dropEntry a.entries v.code v.subject).length ≤ a.entries.length :=
              List.length_filter_le _ _
            simp only [createEntry, length_insertSorted]
            have := hd ‹_›
            omega
          · simp only; omega
        · simp only; omega
  | withdraw c subj =>
    simp only [applyOp, withdrawAlert]
    split
    · split
      · simp
      · have : (dropEntry a.entries c subj).length ≤ a.entries.length := List.length_filter_le _ _
        simp only; omega
    · simp

theorem length_applyOps (h : Nat) (a : Alerts) (ops : List AlertOp) :
    a.nextSeq ≤ (applyOps h a ops).nextSeq ∧
      (applyOps h a ops).entries.length + a.nextSeq ≤ a.entries.length + (applyOps h a ops).nextSeq := by
  induction ops generalizing a with
  | nil => simp [applyOps]
  | cons op ops ih =>
    have h1 := length_applyOp h a op
    have h2 := ih (applyOp h a op)
    rw [show applyOps h a (op :: ops) = applyOps h (applyOp h a op) ops from rfl]
    omega

/-! ### Taken in turn -/

/-- Raises and withdrawals of other codes and subjects leave an entry in a list that keeps room. -/
theorem of_applyOps_other {h : Nat} {a : Alerts} {ops : List AlertOp} {c : AlertCode} {subj : Subject}
    (ho : ops.filter (AlertOp.about c subj) = [])
    (room : a.entries.length + ((applyOps h a ops).nextSeq - a.nextSeq) < 24) :
    (applyOps h a ops).of c subj = a.of c subj := by
  induction ops generalizing a with
  | nil => rfl
  | cons op ops ih =>
    have h1 := length_applyOp h a op
    have h2 := length_applyOps h (applyOp h a op) ops
    rw [show applyOps h a (op :: ops) = applyOps h (applyOp h a op) ops from rfl] at room ⊢
    rw [List.filter_cons] at ho
    split at ho
    · cases ho
    · rename_i hop
      rw [ih ho (by omega), of_applyOp_other (by simpa using hop) (by omega)]

/-- One raise of a code and subject among others: its entry stands at the end. -/
theorem applyOps_raised {h : Nat} {a : Alerts} {ops : List AlertOp} {c : AlertCode} {subj : Subject} {p : Nat}
    (ho : ops.filter (AlertOp.about c subj) = [.raise c subj p])
    (room : a.entries.length + ((applyOps h a ops).nextSeq - a.nextSeq) < 24) :
    ∃ e ∈ (applyOps h a ops).entries, e.code = c ∧ e.subject = subj ∧ e.acked = false ∧ e.resolved = false ∧
      match a.find c subj with
      | some o => e.repeats = min 255 (o.repeats + 1)
      | none => e.repeats = 1 ∧ e.priority = p := by
  induction ops generalizing a with
  | nil => cases ho
  | cons op ops ih =>
    have h1 := length_applyOp h a op
    have h2 := length_applyOps h (applyOp h a op) ops
    rw [show applyOps h a (op :: ops) = applyOps h (applyOp h a op) ops from rfl] at room ⊢
    rw [List.filter_cons] at ho
    split at ho
    · obtain ⟨rfl, hrest⟩ := List.cons.inj ho
      have keep (e : AlertEntry) (he : e ∈ (applyOp h a (.raise c subj p)).entries) (hc : e.code = c)
          (hs : e.subject = subj) : e ∈ (applyOps h (applyOp h a (.raise c subj p)) ops).entries := by
        have := of_applyOps_other hrest (h := h) (a := applyOp h a (.raise c subj p)) (by omega)
        exact (Alerts.mem_of.mp (this ▸ Alerts.mem_of.mpr ⟨he, hc, hs⟩)).1
      cases hf : a.find c subj with
      | some o =>
        obtain ⟨-, hc, hs⟩ := Alerts.find_code hf
        have hr : applyOp h a (.raise c subj p) = coalesce a o p := by simp only [applyOp, raiseAlert, hf]
        rw [hr] at keep ⊢
        refine ⟨_, keep _ ((mem_insertSorted _ _ _ _).mpr (.inl rfl)) hc hs, hc, hs, rfl, rfl, rfl⟩
      | none =>
        have hr : applyOp h a (.raise c subj p) = createEntry a a.entries c subj p h := by
          simp only [applyOp, raiseAlert, hf]
          exact if_pos (show a.entries.length < Config.alertEntries from by
            show a.entries.length < 24; omega)
        rw [hr] at keep ⊢
        exact ⟨_, keep _ ((mem_insertSorted _ _ _ _).mpr (.inl rfl)) rfl rfl, rfl, rfl, rfl, rfl, rfl, rfl⟩
    · rename_i hop
      have hsame : (applyOp h a op).find c subj = a.find c subj := by
        rw [Alerts.find_eq, Alerts.find_eq, of_applyOp_other (by simpa using hop) (by omega)]
      have := ih (a := applyOp h a op) ho (by omega)
      rwa [hsame] at this

/-- One withdrawal of a code and subject among others: no entry of it is left but resolved ones. -/
theorem applyOps_withdrawn {h : Nat} {a : Alerts} {ops : List AlertOp} {c : AlertCode} {subj : Subject}
    (ho : ops.filter (AlertOp.about c subj) = [.withdraw c subj] ∨
      (ops.filter (AlertOp.about c subj) = [] ∧
        ∀ e ∈ a.entries, e.code = c → e.subject = subj → e.resolved = true)) :
    ∀ e ∈ (applyOps h a ops).entries, e.code = c → e.subject = subj → e.resolved = true := by
  induction ops generalizing a with
  | nil =>
    rcases ho with ho | ⟨-, ha⟩
    · cases ho
    · exact ha
  | cons op ops ih =>
    rw [show applyOps h a (op :: ops) = applyOps h (applyOp h a op) ops from rfl]
    refine ih ?_
    rw [List.filter_cons] at ho
    split at ho
    · rcases ho with ho | ⟨ho, -⟩
      · obtain ⟨rfl, hrest⟩ := List.cons.inj ho
        refine .inr ⟨hrest, fun e he hc hs => ?_⟩
        simp only [applyOp, withdrawAlert] at he
        split at he
        · split at he
          · simp only [List.mem_map] at he
            obtain ⟨o, -, rfl⟩ := he
            by_cases hi : o.is c subj = true
            · rw [if_pos hi]
            · rw [if_neg hi] at hc hs
              exact absurd ((AlertEntry.is_iff _ _ _).mpr ⟨hc, hs⟩) hi
          · exact absurd ⟨hc, hs⟩ (mem_dropEntry.mp he).2
        · rename_i hf
          exact absurd ((AlertEntry.is_iff _ _ _).mpr ⟨hc, hs⟩) (List.find?_eq_none.mp hf e he)
      · cases ho
    · rename_i hop
      rcases ho with ho | ⟨ho, ha⟩
      · exact .inl ho
      · refine .inr ⟨ho, fun e he hc hs => ha e (mem_applyOp_other ?_ he) hc hs⟩
        subst hc hs
        simpa using hop

/-! ### The end of an event -/

/-- The raises and withdrawals of an event about a code and subject. -/
def Ev.about (e : Ev) (c : AlertCode) (subj : Subject) : List AlertOp :=
  (e.ops.map fun q => q.2).filter (AlertOp.about c subj)

@[simp] theorem Ev.about_start (s : State) (c : AlertCode) (subj : Subject) : (Ev.start s).about c subj = [] := rfl

@[simp] theorem Ev.about_upd (e : Ev) (f : State → State) (c : AlertCode) (subj : Subject) :
    (e.upd f).about c subj = e.about c subj := rfl

@[simp] theorem Ev.about_hear (e : Ev) (p : Party) (c : AlertCode) (subj : Subject) :
    (e.hear p).about c subj = e.about c subj := rfl

@[simp] theorem Ev.about_hand (e : Ev) (o : Owner) (ops : List AlertOp) (c : AlertCode) (subj : Subject) :
    (e.hand o ops).about c subj = e.about c subj ++ ops.filter (AlertOp.about c subj) := by
  simp [Ev.about, Ev.hand, Function.comp_def]

/-- The end of an event takes the operations handed on, with those of ENGINE_DERATE_FLOOR, in some order, and
changes the entries and the order of raising no further. -/
theorem Ev.finish_taken (e : Ev) {c : AlertCode} {subj : Subject} (hc : c ≠ .engineDerateFloor) :
    ∃ (h : Nat) (ops : List AlertOp), e.finish.alerts.entries = (applyOps h e.st.alerts ops).entries ∧
      e.finish.alerts.nextSeq = (applyOps h e.st.alerts ops).nextSeq ∧
      (ops.filter (AlertOp.about c subj)).Perm (e.about c subj) := by
  have hs : (e.passRows.passServiceCap.passStep.passCharge.passMessages).st.alerts = e.st.alerts := by
    refine (Ev.only_passMessages _ .alerts (by decide)).trans ?_
    refine (Ev.only_passCharge _ .alerts (by decide)).trans ?_
    refine (Ev.only_passStep _ .alerts (by decide)).trans ?_
    refine (Ev.only_passServiceCap _ .alerts (by decide)).trans ?_
    exact Ev.only_passRows _ .alerts (by decide)
  have h1 : e.passRows.about c subj = e.about c subj := by
    unfold Ev.passRows
    split
    · rfl
    · split <;> rfl
  have h2 (e : Ev) : e.passServiceCap.about c subj = e.about c subj := by
    unfold Ev.passServiceCap; split <;> rfl
  have h3 (e : Ev) : e.passStep.about c subj = e.about c subj := by
    unfold Ev.passStep
    split
    · have hf (a b : Bool) : (floorOps a b).filter (AlertOp.about c subj) = [] := by
        cases a <;> cases b <;> simp [floorOps, edgeOps, raiseOp, AlertOp.about, hc.symm]
      simp [hf]
    · rfl
  have h4 (e : Ev) : e.passCharge.about c subj = e.about c subj := by unfold Ev.passCharge; split <;> rfl
  have hoff (s : State) (b : Bool) : (s.when b State.placeOffer).alerts.entries = s.alerts.entries ∧
      (s.when b State.placeOffer).alerts.nextSeq = s.alerts.nextSeq := by cases b <;> exact ⟨rfl, rfl⟩
  refine ⟨_, _, ((hoff _ _).1.trans (congrArg _ (congrArg (applyOps _ · _) hs))),
    ((hoff _ _).2.trans (congrArg _ (congrArg (applyOps _ · _) hs))), ?_⟩
  refine ((taken_perm _ _).filter _).trans ?_
  show ((e.passRows.passServiceCap.passStep.passCharge).about c subj).Perm (e.about c subj)
  rw [h4, h3, h2, h1]

/-- An event that hands on one raise of a code and subject, and nothing else about it, raises it. -/
theorem Ev.raised_finish (e : Ev) {s : State} {c : AlertCode} {subj : Subject} (hc : c ≠ .engineDerateFloor)
    (ho : e.about c subj = [raiseOp c subj]) (hl : e.st.alerts.entries.length ≤ s.alerts.entries.length)
    (hn : e.st.alerts.nextSeq = s.alerts.nextSeq) (hf : e.st.alerts.find c subj = s.alerts.find c subj) :
    RaisedAmong s e.finish c subj := by
  obtain ⟨h, ops, he, hq, hp⟩ := e.finish_taken (subj := subj) hc
  rw [ho, List.perm_singleton] at hp
  intro room
  rw [hq] at room
  have := applyOps_raised (h := h) (a := e.st.alerts) hp (by omega)
  rw [he, ← hf]
  exact this

/-- An event that hands on one withdrawal of a code and subject, and nothing else about it, withdraws it. -/
theorem Ev.withdrawn_finish (e : Ev) {c : AlertCode} {subj : Subject} (hc : c ≠ .engineDerateFloor)
    (ho : e.about c subj = [.withdraw c subj]) :
    ∀ x ∈ e.finish.alerts.entries, x.code = c → x.subject = subj → x.resolved = true := by
  obtain ⟨h, ops, he, -, hp⟩ := e.finish_taken (subj := subj) hc
  rw [ho, List.perm_singleton] at hp
  rw [he]
  exact applyOps_withdrawn (.inl hp)

/-- The alerts of an event follow their conditions, where for each condition that changes it hands on the one
raise or withdrawal that the change calls for. -/
theorem Ev.follows_finish (e : Ev) {s : State} {l : List AlertCode} (hc : .engineDerateFloor ∉ l)
    (hl : e.st.alerts.entries.length ≤ s.alerts.entries.length) (hn : e.st.alerts.nextSeq = s.alerts.nextSeq)
    (hf : ∀ c ∈ l, ∀ subj, e.st.alerts.find c subj = s.alerts.find c subj)
    (up : ∀ c ∈ l, ∀ subj, ¬Stands s c subj → Stands e.finish c subj → e.about c subj = [raiseOp c subj])
    (down : ∀ c ∈ l, ∀ subj, Stands s c subj → ¬Stands e.finish c subj →
      e.about c subj = [.withdraw c subj]) : AlertsFollow l s e.finish := by
  intro c hm subj
  have hne : c ≠ .engineDerateFloor := by rintro rfl; exact hc hm
  exact ⟨fun h1 h2 => e.raised_finish hne (up c hm subj h1 h2) hl hn (hf c hm subj),
    fun h1 h2 => e.withdrawn_finish hne (down c hm subj h1 h2)⟩

theorem AlertsFollow.mono {l m : List AlertCode} {s t : State} (h : AlertsFollow m s t) (sub : ∀ c ∈ l, c ∈ m) :
    AlertsFollow l s t :=
  fun c hc => h c (sub c hc)

theorem filter_edgeOps (a b : Bool) (c c' : AlertCode) (subj subj' : Subject) :
    (edgeOps a b c subj).filter (AlertOp.about c' subj') =
      if c = c' ∧ subj = subj' then edgeOps a b c subj else [] := by
  cases a <;> cases b <;> by_cases h : c = c' ∧ subj = subj' <;>
    simp [edgeOps, raiseOp, AlertOp.about, h]

/-! ### The alerts of a table -/

theorem filter_slotOps (k : Nat) (a b : Option FenceAlert) (c : AlertCode) {n : Nat} (h : k ≠ n) :
    (slotOps k a b).filter (AlertOp.about c (.slot n)) = [] := by
  rw [List.filter_eq_nil_iff]
  intro op ho
  unfold slotOps at ho
  split at ho
  · cases ho
  · rcases List.mem_append.mp ho with ho | ho <;> split at ho <;>
      simp only [List.mem_singleton, List.not_mem_nil, raiseOp] at ho <;> subst ho <;>
      simp [AlertOp.about, h]

/-- The raises and withdrawals of the fence table about a slot are those of that slot (R71). -/
theorem filter_fenceOps (slots : List FenceSlot) (c : AlertCode) {n : Nat} (hn : 1 ≤ n) :
    (fenceOps slots).filter (AlertOp.about c (.slot n)) =
      (slotOps n (slotAt slots n).alert (slotAt slots n).state.alert).filter (AlertOp.about c (.slot n)) := by
  have go (k : Nat) (hk : k < n) :
      (((slots.zipIdx k).map fun p => slotOps (p.2 + 1) p.1.alert p.1.state.alert).flatten).filter
          (AlertOp.about c (.slot n)) =
        (slotOps n (slots.getD (n - 1 - k) emptySlot).alert
          (slots.getD (n - 1 - k) emptySlot).state.alert).filter (AlertOp.about c (.slot n)) := by
    induction slots generalizing k with
    | nil => rfl
    | cons x xs ih =>
      rw [List.zipIdx_cons, List.map_cons, List.flatten_cons, List.filter_append]
      by_cases h : k + 1 = n
      · have hrest : (((xs.zipIdx (k + 1)).map fun p => slotOps (p.2 + 1) p.1.alert p.1.state.alert).flatten).filter
            (AlertOp.about c (.slot n)) = [] := by
          rw [List.filter_flatten, List.flatten_eq_nil_iff]
          intro l hl
          simp only [List.mem_map] at hl
          obtain ⟨_, ⟨p, hp, rfl⟩, rfl⟩ := hl
          have := List.le_snd_of_mem_zipIdx hp
          exact filter_slotOps _ _ _ _ (by omega)
        rw [hrest, List.append_nil, show n - 1 - k = 0 by omega]
        subst h
        rfl
      · rw [filter_slotOps _ _ _ _ h, List.nil_append, ih (k + 1) (by omega),
          show n - 1 - k = (n - 1 - (k + 1)) + 1 by omega, List.getD_cons_succ]
  simpa [slotAt, fenceOps] using go 0 (by omega)

theorem filter_itemAlertOps (k : Nat) (a b : Option ItemAlert) (c : AlertCode) {n : Nat} (h : k ≠ n) :
    (itemAlertOps k a b).filter (AlertOp.about c (.item n)) = [] := by
  rw [List.filter_eq_nil_iff]
  intro op ho
  unfold itemAlertOps at ho
  split at ho
  · cases ho
  · rcases List.mem_append.mp ho with ho | ho <;> split at ho <;>
      simp only [List.mem_singleton, List.not_mem_nil, raiseOp] at ho <;> subst ho <;>
      simp [AlertOp.about, h]

/-- The raises and withdrawals of a table of distinct items about an item are those of that item (R126). -/
theorem filter_itemOps {items : List Item} (hd : items.Pairwise fun i j => i.defn.number ≠ j.defn.number)
    (c : AlertCode) {i : Item} (hi : i ∈ items) :
    (itemOps items).filter (AlertOp.about c (.item i.defn.number)) =
      (itemAlertOps i.defn.number i.alert i.usage.state.alert).filter
        (AlertOp.about c (.item i.defn.number)) := by
  have none_of (l : List Item) (h : ∀ j ∈ l, j.defn.number ≠ i.defn.number) :
      (itemOps l).filter (AlertOp.about c (.item i.defn.number)) = [] := by
    unfold itemOps
    rw [List.filter_flatten, List.flatten_eq_nil_iff]
    intro m hm
    simp only [List.mem_map] at hm
    obtain ⟨_, ⟨j, hj, rfl⟩, rfl⟩ := hm
    exact filter_itemAlertOps _ _ _ _ (h j hj)
  induction items with
  | nil => cases hi
  | cons x xs ih =>
    rw [List.pairwise_cons] at hd
    have hx : itemOps (x :: xs) = itemAlertOps x.defn.number x.alert x.usage.state.alert ++ itemOps xs := rfl
    rw [hx, List.filter_append]
    rcases List.mem_cons.mp hi with rfl | hi
    · rw [none_of xs fun j hj => (hd.1 j hj).symm, List.append_nil]
    · rw [filter_itemAlertOps _ _ _ _ (hd.1 i hi), List.nil_append, ih hd.2 hi]

end Sys2Proof.Machine
end

