-- ==== Sys2Proof/Laws/Requests.lean ====
section
/-! SUPPORT. The shape of a request's event: the state in which it is judged, how it is answered or refused, and
what an answered event leaves (`Taken`, `RefusedWith`). -/

namespace Sys2Proof.Machine

/-! ### Hearing and arrival -/

/-- The event at the judgement of a request of a kind from a party. -/
def Ev.heard (s : State) (k : RxKind) (p : Party) : Ev :=
  ((Ev.start s).hear p).upd fun s => s.gatewayArrival k p

theorem Ev.hear_alerts (s : State) (p : Party) : ((Ev.start s).hear p).st.alerts = heardAlerts s p := by
  unfold heardAlerts
  cases h1 : (s.links.get p).state <;> cases h2 : (s.links.get p).offlineStands <;>
    simp [Ev.hear, Ev.start, applyOps, applyOp, h1, h2]

@[simp] theorem Ev.hear_links (s : State) (p : Party) : ((Ev.start s).hear p).st.links = heardLinks s p := rfl

/-- The state after a frame of a party is heard. -/
theorem Ev.hear_st (s : State) (p : Party) :
    ((Ev.start s).hear p).st = { s with links := heardLinks s p, alerts := heardAlerts s p } := by
  have h := Ev.hear_alerts s p
  rw [← h]; rfl

/-- The entry a take is judged by: offered before the event, and still in the list. -/
theorem Ev.standingOffer_eq_some {e : Ev} {o : AlertEntry} :
    e.standingOffer = some o ↔
      e.old.alerts.offered = some o ∧ (e.st.alerts.find o.code o.subject).isSome = true := by
  simp [Ev.standingOffer, Option.filter_eq_some_iff]

/-- The state in which a request is judged. -/
theorem Ev.heard_st (s : State) (k : RxKind) (p : Party) : (Ev.heard s k p).st = heardState s k p := by
  show State.gatewayArrival _ k p = _
  rw [Ev.hear_st]; rfl

@[simp] theorem Ev.hear_ops (e : Ev) (p : Party) : (e.hear p).ops = e.ops := rfl

@[simp] theorem Ev.heard_ops (s : State) (k : RxKind) (p : Party) : (Ev.heard s k p).ops = [] := rfl

theorem Ev.heard_codes (s : State) (k : RxKind) (p : Party) (c : List AlertCode) : (Ev.heard s k p).CodesIn c := by
  intro q hq; cases hq

theorem Ev.heard_keeps (s : State) (k : RxKind) (p : Party) :
    Keeps [.links, .ctrl, .plan] [] linkCodes s (Ev.heard s k p).st := by
  have h1 := (((Ev.start s).keeps_hear p).mono (l' := [.links, .ctrl, .plan]) (by decide) (fun _ h => h)
    (fun _ h => h))
  have h2 : Keeps [.links, .ctrl, .plan] [] linkCodes ((Ev.start s).hear p).st (Ev.heard s k p).st :=
    (Keeps.of_only (State.only_gatewayArrival _ k p) (by decide) (by decide)).mono (by decide) (fun _ h => h)
      (fun _ h => h)
  exact h1.trans h2

/-- The arrival of a request of the cab restarts nothing. -/
theorem Ev.heard_cab (s : State) (k : RxKind) : (Ev.heard s k .cab).st = ((Ev.start s).hear .cab).st := by
  show State.gatewayArrival _ k .cab = _
  exact State.gatewayArrival_other _ k (by decide)

theorem Ev.heard_run {s : State} {k : RxKind} (p : Party) (hw : s.power = .run) (hk : keepsTransfer k = false) :
    (Ev.heard s k p).st = ((Ev.start s).hear p).st :=
  State.gatewayArrival_run p hw hk

theorem Ev.heard_keeps_links {s : State} {k : RxKind} {p : Party}
    (h : (Ev.heard s k p).st = ((Ev.start s).hear p).st) : Keeps [.links] [] linkCodes s (Ev.heard s k p).st := by
  rw [h]; exact (Ev.start s).keeps_hear p

@[simp] theorem Ev.heard_power (s : State) (k : RxKind) (p : Party) : (Ev.heard s k p).st.power = s.power := rfl

/-! ### Answered and refused events -/

/-- An event that ends with an answer that is no refusal takes its request. -/
theorem Ev.taken {s : State} {e : Ev} {p : Party} {k : RxKind} {r : Result} {d : Nat} {l : List Block}
    {m : List (TxKind × Party)} {c : List AlertCode} (hr : r.isRefusal = false)
    (hl : e.st.links = heardLinks s p) (h : Keeps (.links :: l) m (linkCodes ++ c) s e.st)
    (hc : e.CodesIn (linkCodes ++ c)) : Taken s (e.answer p k r d).finish p k r d l m c := by
  refine ⟨?_, Ev.answered_finish (State.answered_answer _ _ _ _ _), ?_⟩
  · rw [Ev.finish_links]
    show (e.st.answer p k r d).links = _
    rw [State.only_answer e.st p k r d .links (by decide), hl]
  · refine Ev.keeps_finish _ ?_ hc
    refine (h.mono (fun _ h => h) (by intro x hx; exact List.mem_cons_of_mem _ hx) (fun _ h => h)).trans ?_
    exact (State.keeps_answer e.st p k hr d _).mono (by simp) (by simp) (fun _ h => h)

/-- A request refused at its judgement. -/
theorem Ev.refused (s : State) (p : Party) (k : RxKind) {r : Result} (hr : r.isRefusal = true) :
    RefusedWith s ((Ev.heard s k p).answer p k r 0).finish p k r := by
  have hf (b : Block) (hb : b ∉ [Block.ports, .fault]) : b.same (Ev.heard s k p).st
      ((Ev.heard s k p).answer p k r 0).st := State.only_answer _ p k r 0 b hb
  refine ⟨?_, Ev.answered_finish (State.answered_answer _ _ _ _ _), ?_, ?_, ?_, ?_⟩
  · rw [Ev.finish_links]; exact hf .links (by decide)
  · rw [Ev.finish_fault]
    exact State.fault_answer_refused _ p k hr 0
  · rw [Ev.finish_ctrl]; exact hf .ctrl (by decide)
  · rw [Ev.finish_plan]; exact hf .plan (by decide)
  · refine Ev.keeps_finish _ ?_ (Ev.heard_codes s k p _)
    refine ((Ev.heard_keeps s k p).mono (by decide) (by simp) (fun _ h => h)).trans ?_
    exact (State.keeps_refuse _ p k r 0 _).mono (by decide) (fun _ h => h) (fun _ h => h)

/-- A delivered request reaches its judgement. -/
theorem receiveRequest_heard {s : State} {k : RxKind} {f : Frame} {p : Party} (hk : k.isRequest = true)
    (h : Delivered s k f p) (body : Party → Ev → Ev) :
    receiveRequest k f s body = (body p (Ev.heard s k p)).finish :=
  receiveRequest_delivered hk h body

theorem Delivered.power {s : State} {k : RxKind} {f : Frame} {p : Party} (h : Delivered s k f p) :
    s.power = .run ∨ s.power = .parking ∨ s.power = .serviceAwake := h.1.1

theorem Delivered.permits {s : State} {k : RxKind} {f : Frame} {p : Party} (hk : k.isRequest = true)
    (h : Delivered s k f p) : permits k p = true := by
  have := h.2.2.1
  rwa [hk, if_pos rfl] at this

/-- A request that only RUN takes, in RUN. -/
theorem Ev.inRun_run {e : Ev} {p : Party} {k : RxKind} {body : Ev → Ev} (h : e.st.power = .run) :
    e.inRun p k body = body e := if_pos h

/-- A request that only RUN takes, outside RUN. -/
theorem Ev.inRun_other {e : Ev} {p : Party} {k : RxKind} {body : Ev → Ev} (h : e.st.power ≠ .run) :
    e.inRun p k body = e.answer p k .refusedState 0 := if_neg h

theorem Ev.whileAwake_awake {e : Ev} {p : Party} {k : RxKind} {body : Ev → Ev}
    (h : e.st.power = .run ∨ e.st.power = .serviceAwake) : e.whileAwake p k body = body e := by
  unfold Ev.whileAwake
  rcases h with h | h <;> rw [h] <;> rfl

theorem Ev.whileAwake_parking {e : Ev} {p : Party} {k : RxKind} {body : Ev → Ev} (h : e.st.power = .parking) :
    e.whileAwake p k body = e.answer p k .refusedState 0 := by
  unfold Ev.whileAwake
  rw [h]; rfl

end Sys2Proof.Machine
end

