-- ==== Sys2Proof/Tests/Slice0.lean ====
section
/-! SUPPORT. Tests of the model: worked examples of the manual, ill-formed commands, and for each statement with
hypotheses a concrete state and operands that meet them (`test_meets_…`). -/

namespace Sys2Proof.Tests

open Sys2Proof Sys2Proof.Machine

/-! ### Frames and states -/

/-- A frame addressed to the part. -/
def frameFrom (p : Party) (data : List Byte) : Frame :=
  { port := p.port, prio := 4, dest := partNode, src := p.node, data := data }

/-- RUN under NO_PLAN with what precedes the merger as after the entry to RUN (R58, R68, R98). -/
def runBase : State :=
  { State.reset with
    power := .run
    pins := { keyOn := true, supply := true, resetReleased := true }
    env := { coldEnv with crawl := crawlRow 100 false false, unindexed := true } }

/-- RUN under NO_PLAN, merged, judged and placed. -/
def run : State :=
  { runBase with
    caps := { coldMerger with
      rows := runBase.ownRows, caps := mergeAll runBase.ownRows, sending := true
      lastPlaced := some (capSetData (mergeAll runBase.ownRows)) }
    step := { coldStep.judge runBase.stepIn with lastDemand := some (runBase.stepIn.issued, 1300) }
    charge := { coldCharging with step := runBase.stepIn.issued }
    alerts := { emptyAlerts 1 with lastOffer := some (offerKey (emptyAlerts 1)) } }

/-- SERVICE_AWAKE after the wake of a part without a plan. -/
def awake : State :=
  { State.reset with
    power := .serviceAwake, pins := { keyOn := false, supply := true, resetReleased := true }
    ctrl := { coldCtrl with awakeTimer := 300000 } }

/-- PARKING with the parking checkpoint in flight. -/
def parking : State :=
  { State.reset with
    power := .parking, pins := { keyOn := false, supply := true, resetReleased := true }
    ctrl := { coldCtrl with
      parkingCkpt := true
      writing := some { slot := .a, seq := 1, image := accountImage State.reset, parking := true } } }

/-- PARKED. -/
def parked : State :=
  { State.reset with power := .parked, pins := { keyOn := false, supply := true, resetReleased := true } }

/-- The power state that an answer leaves. -/
def powerAfter (a : Answer) : Option Power :=
  match a with
  | .next t => some t.power
  | _ => none

/-- A property of the next state that an answer gives. -/
def leaves (a : Answer) (p : State → Bool) : Bool :=
  match a with
  | .next t => p t
  | _ => false

/-! ### Ill-formed commands -/

theorem test_wellFormed_longData :
    (Instr.jointSample (frameFrom .sensor (List.replicate 25 0))).wellFormed = false ∧
    (Instr.xferData (frameFrom .gateway (List.replicate 13 0))).wellFormed = false ∧
    (Instr.xferData (frameFrom .gateway (List.replicate 12 0))).wellFormed = true := by decide

theorem test_wellFormed_frameThatReaches :
    (Instr.frameNotForPart 0x10D (frameFrom .cab [6, 0])).wellFormed = false ∧
    (Instr.frameNotForPart 0x10D { frameFrom .cab [6, 0] with dest := 0x41 }).wellFormed = true := by decide

theorem test_wellFormed_sentFrame :
    (Instr.txSuccess .powertrain
      (some { kind := .capSet, dest := 0x31, data := [], replaced := false })).wellFormed = false ∧
    (Instr.txSuccess .implement
      (some { kind := .capSet, dest := 0x31, data := [], replaced := false })).wellFormed = true ∧
    (Instr.txSuccess .implement
      (some { kind := .capSet, dest := 0x31, data := List.replicate 25 0, replaced := false })).wellFormed =
        false := by decide

theorem test_wellFormed_step :
    (Instr.hundredthHourCompletion 0).wellFormed = false ∧
    (Instr.hundredthHourCompletion 1).wellFormed = true ∧
    (Instr.hundredthHourCompletion 10).wellFormed = true ∧
    (Instr.hundredthHourCompletion 11).wellFormed = false := by decide

/-! ### Identifiers written out from R161: priority, kind, destination, source -/

theorem test_decode_samples :
    decodeFrame .implement 0b010_0000010000_01000000_01100001 (List.replicate 8 0) =
      .jointSample { port := .implement, prio := 2, dest := 0x40, src := 0x61, data := List.replicate 8 0 } ∧
    decodeFrame .powertrain 0b011_0000100000_11111111_00010001 (List.replicate 7 0) =
      .engineStatus { port := .powertrain, prio := 3, dest := 0xFF, src := 0x11, data := List.replicate 7 0 } ∧
    decodeFrame .implement 0b011_0000100001_01000000_00110001 (List.replicate 8 0) =
      .valveStatus { port := .implement, prio := 3, dest := 0x40, src := 0x31, data := List.replicate 8 0 } := by
  decide

theorem test_decode_requests :
    decodeFrame .implement 0b100_0100001101_01000000_00100001 [6, 0] = .read (frameFrom .cab [6, 0]) ∧
    decodeFrame .powertrain 0b100_0110000001_01000000_01010001 [0, 0, 1] =
      .xferData (frameFrom .gateway [0, 0, 1]) := by decide

theorem test_decode_discards :
    decodeFrame .implement 0b100_0100001101_01000001_00100001 [6, 0] =
      .frameNotForPart 0x10D { frameFrom .cab [6, 0] with dest := 0x41 } ∧
    decodeFrame .powertrain 0b010_0000010000_01000000_01100001 (List.replicate 8 0) =
      .frameNotForPart 0x010
        { port := .powertrain, prio := 2, dest := 0x40, src := 0x61, data := List.replicate 8 0 } ∧
    decodeFrame .implement 0b010_0000010000_01000000_01100001 [0] =
      .frameNotForPart 0x010 { port := .implement, prio := 2, dest := 0x40, src := 0x61, data := [0] } := by
  decide

/-- The part's own CAP_SET to the valve controller: 0b001_0000110000_00110001_01000000 (R161). -/
theorem test_identifier_capSet : TxKind.identifier .capSet 0x31 = 0b001_0000110000_00110001_01000000 := by
  decide

/-! ### Worked examples of the manual -/

/-- Three channels with these readings, all OK. -/
def ok3 (a b c : Int) : List Channel :=
  [a, b, c].map fun r => storeChannel { reading := r, status := .ok }

/-- The worked votes of section 1.3. -/
theorem test_votes :
    vote (ok3 3050 3010 3120) = (some 3050, .good) ∧ vote (ok3 3100 3240 3000) = (some 3100, .two) ∧
    vote (ok3 3000 3400 3100) = (some 3050, .two) ∧ vote (ok3 (-3861) (-4210) (-3900)) = (some (-3881), .two) ∧
    vote (ok3 1000 1300 1600) = (none, .invalid) ∧ vote (ok3 18000 2040 2100) = (some 2070, .two) := by decide

/-- The worked votes of section 1.3 with a FAULT channel. -/
theorem test_votes_fault :
    vote [storeChannel ⟨2000, .ok⟩, storeChannel ⟨2150, .ok⟩, storeChannel ⟨0, .fault⟩] = (some 2075, .two) ∧
    vote [storeChannel ⟨2000, .ok⟩, storeChannel ⟨2151, .ok⟩, storeChannel ⟨0, .fault⟩] = (none, .invalid) := by
  decide

/-- The worked angle and speed of section 1.7. -/
theorem test_angle_and_speed :
    angleOf 3000 61000 40000 = 6782 ∧ roundDiv (-2700 * 36000) 40120 = -2423 ∧ dirOf (-2423) = .right := by
  decide

/-- The worked trigonometry of section 2.2. -/
theorem test_trigonometry :
    sine 3050 = 8315 ∧ sine (-3861) = -10224 ∧ cosine (-6000) = 8192 ∧ term (-5600) 14189 = -4850 := by decide

/-- The inputs of the full worked case (section 2.5). -/
def workedIn : PoseIn :=
  { boom := 3000, boomQ := .good, stick := -6000, stickQ := .good, bucket := -9000, bucketQ := .good, pitch := 0,
    roll := 250, frameQ := .good, slew := some 4500 }

/-- The pose of the full worked case. -/
def workedPose : PoseRec := coldPose.evaluate builtinGeometry workedIn

theorem test_pose :
    workedPose = { coldPose with
      rf := 1600, zf := 3400, rs := 11300, zs := 9000, rk := 14100, zk := 4150, rt := 14100, zt := 1250
      htop := 9900, rmax := 14100, lowest := 1250, bucketAngle := -9000, slew := some 4500
      plan := some (9970, 9970), quality := .good } := by decide

theorem test_pose_pitched :
    let r := coldPose.evaluate builtinGeometry { workedIn with pitch := 200 }
    [r.rf, r.zf, r.rs, r.zs, r.rk, r.zk, r.rt, r.zt, r.htop, r.rmax] =
      [1480, 3454, 11180, 9054, 13980, 4204, 13980, 1304, 9954, 13980] := by decide

theorem test_pose_saturated :
    let r := coldPose.evaluate { builtinGeometry with l1 := 20000, l2 := 20000 }
      { workedIn with boom := 9000, stick := 9000 }
    (r.zs, r.zk, r.htop, r.saturated, r.quality) = (23400, 32767, 32767, true, .degraded) := by decide

/-- The panels of the worked selections (section 3.2). -/
def workedPanels : List Panel :=
  [⟨1, 9000, 18000, 8000, 20000, -2000, 0, 0⟩, ⟨2, 0, 9000, 0, 8000, -1500, 0, 0⟩,
   ⟨3, 0, 9000, 8000, 20000, -2000, -20, 5⟩]

theorem test_selections :
    let at' (a : Nat) (rt : Int) := (selectPanel workedPanels { workedPose with slew := some a, rt := rt }).map
      fun p => p.number
    at' 4500 14100 = some 3 ∧ at' 9000 14100 = some 1 ∧ at' 4500 8000 = some 2 ∧ at' 20000 14100 = none := by
  decide

/-- The benchmark of the worked case (section 3.4). -/
def workedBench : Benchmark := { state := .current, zb := 3100, eb := 0, xb := 12000, yb := 0 }

/-- The Grade Guide of the worked case with the guard on. -/
def workedGrade : Grade := { coldGrade with bench := workedBench, guardOn := true }

/-- The values in force of the worked case. -/
def workedForce : InForce := { builtinInForce with panels := workedPanels }

theorem test_guidance :
    guidance true workedPanels workedPose workedBench =
      { status := .valid, tip := some (-1850), design := some (-1909), cutFill := some 59, panel := some 3 } ∧
    (workedGrade.evaluate true workedForce workedPose).demand = 275 ∧
    (workedGrade.evaluate true workedForce { workedPose with zt := 1191 }).demand = 0 := by decide +kernel

/-- The truck lane of section 4.2. -/
def lane : FenceGeom := { kind := .sector, start := 20000, stop := 26000, limit := none, band := 1000 }

/-- The slew caps right and left that the lane demands at an angle, its state and remaining amount. -/
def atLane (a : Nat) : (Nat × Nat) × FenceState × Option Int :=
  let j := judgeFence builtinLimits lane coldPose (some a)
  ((j.demands.slewRight, j.demands.slewLeft), j.state, j.remaining.map fun r => r.amount)

theorem test_lane :
    atLane 30000 = ((1000, 1000), .clear, some 4000) ∧ atLane 27300 = ((833, 1000), .approach, some 1300) ∧
    atLane 26800 = ((589, 1000), .approach, some 800) ∧ atLane 26400 = ((263, 1000), .approach, some 400) ∧
    atLane 26300 = ((0, 1000), .held, some 300) ∧ atLane 25950 = ((0, 100), .breached, some (-50)) := by
  decide

/-- The power line of section 4.4. -/
def line : FenceGeom := { kind := .ceiling, start := 12000, stop := 18000, limit := some 11000, band := 1500 }

/-- What the line's ceiling shows at a slew angle and height: state, remaining distance, and the caps on
BOOM_UP, SLEW_LEFT and SLEW_RIGHT. -/
def atLine (a : Nat) (top : Int) : FenceState × Option Distance × List Nat :=
  let j := judgeFence builtinLimits line { workedPose with htop := top } (some a)
  (j.state, j.remaining, [j.demands.boomUp, j.demands.slewLeft, j.demands.slewRight])

theorem test_line_outside :
    atLine 9000 12500 = (.clear, some ⟨3000, .cd⟩, [1000, 1000, 1000]) ∧
    atLine 10600 12500 = (.approach, some ⟨1400, .cd⟩, [1000, 873, 1000]) ∧
    atLine 11700 12500 = (.held, some ⟨300, .cd⟩, [1000, 0, 1000]) ∧
    atLine 11700 10800 = (.clear, some ⟨200, .mm⟩, [1000, 1000, 1000]) := by decide

theorem test_line_inside :
    atLine 12500 10800 = (.approach, some ⟨200, .mm⟩, [220, 1000, 1000]) ∧
    atLine 12500 11030 = (.held, some ⟨-30, .mm⟩, [0, 0, 100]) ∧
    atLine 12500 11080 = (.breached, some ⟨-80, .mm⟩, [0, 0, 100]) ∧
    atLine 12500 10950 = (.approach, some ⟨50, .mm⟩, [130, 1000, 1000]) := by decide

/-- The merge of section 5.2. -/
theorem test_merge :
    let t : DemandTable := { freeTable with
      slots := (freeTable.slots.set 1 { Row.free with slewRight := 589 }).set 12 { Row.free with stickOut := 640 }
      items := (freeTable.items.set 2 { Row.free with stickOut := 640, stickIn := 640 }).set 6
        { Row.free with slewLeft := 600, slewRight := 600 }
      guard := { Row.free with boomDown := 275 } }
    mergeAll t =
      ⟨⟨600, .service 7⟩, ⟨589, .fence 2⟩, ⟨1000, .none⟩, ⟨275, .gradeGuard⟩, ⟨640, .fence 13⟩,
       ⟨640, .service 3⟩, ⟨1000, .none⟩, ⟨1000, .none⟩⟩ := by decide +kernel

/-- The worked selections of section 6.4. -/
theorem test_windows :
    let close (sel down sum : Nat) :=
      let c := ({ coldEcon sel 10 10 with sum := sum, down := down }).closeWindow builtinEcon
      [c.average, some c.selection, some c.down]
    close 4 0 1980 = [some 61, some 6, some 0] ∧ close 6 0 1440 = [some 45, some 6, some 1] ∧
    close 6 1 1664 = [some 52, some 5, some 0] ∧ close 5 0 1504 = [some 47, some 5, some 1] ∧
    close 5 1 1760 = [some 55, some 5, some 0] ∧ close 5 0 1020 = [some 31, some 5, some 1] ∧
    close 5 1 2880 = [some 90, some 10, some 0] := by decide

/-- The inputs of the brief economy case (section 6.6). -/
def briefCase : StepIn :=
  { selection := 6, idle := .active, operatorCap := 8, siteCap := 10, serviceCap := 10, phaseCap := 7,
    fenceCap := 10, derate := 2, floorStep := 3, mode := .auto, settings := builtinEcon }

/-- What a judgement gives. -/
def judged (i : StepIn) : Nat × Limiting × Nat × Bool := (i.chosen, i.limiting, i.issued, i.floorHolds)

/-- The brief economy case and two rows of the shift of caps. -/
theorem test_judgement :
    judged briefCase = (6, .selection, 4, false) ∧
    judged { briefCase with selection := 8, phaseCap := 10, fenceCap := 5 } = (5, .fence, 3, false) ∧
    judged { briefCase with selection := 8, phaseCap := 10, fenceCap := 5, derate := 3 } =
      (5, .fence, 2, true) := by decide

/-- The completions of section 7.1: weighted hours gained, remainder after. -/
theorem test_weighting :
    weighting 40 130 = (1, 70) ∧ weighting 70 130 = (2, 0) ∧ weighting 0 145 = (1, 45) ∧
    weighting 45 60 = (1, 5) := by decide

/-- The worked checksums of section 9.2. -/
theorem test_checksum :
    checksum [0x12, 0x34, 0x56] = 0x0676 ∧ checksumStep 0xE001 0xF5 = 0x0104 ∧ checksumStep 0x1FFF 0x10 = 8 := by
  decide

/-! ### Witnesses of the statements' hypotheses -/

theorem test_meets_alertsListsCapsStep :
    run.alerts.Sound ∧ ListsOrdered run ∧ SilentOutsideRun run ∧ OfferCurrent run ∧ CapsCurrent run ∧
      StepCurrent run := by
  unfold Alerts.Sound ListsOrdered PortRec.Sound SilentOutsideRun NoneWaits OfferCurrent CapsCurrent StepCurrent
  refine ⟨?_, ?_, ?_, ?_, ?_, ?_⟩ <;> decide +kernel

theorem test_meets_otherInvariants :
    StepsBounded run ∧ AccountsAgree run ∧ PlanInForce run ∧ TransferSound run.plan ∧ PoseCurrent run ∧
      ChargingCurrent run := by
  unfold StepsBounded EconSettings.Sound IsStep AccountsAgree Meters.HoursSum PoseCurrent ChargingCurrent
  refine ⟨by decide, ⟨?_, ?_, ?_, ?_, ?_⟩, ⟨⟨rfl, rfl⟩, List.Pairwise.nil⟩, rfl, by decide,
    by decide⟩
  all_goals decide

theorem test_meets_FenceTableStaysSound : FencesSound run := by
  refine ⟨by decide, fun n h1 h2 => ?_⟩
  have h : slotAt run.env.slots n = emptySlot := by interval_cases n <;> decide
  rw [h]
  exact ⟨by decide, fun _ => ⟨rfl, rfl, rfl⟩, fun f hf => nomatch hf⟩

/-- A step is answered from a state that meets the invariants: its queue is empty, and time passes. -/
theorem test_meets_step : leaves (step run) (fun t => t.periods.capSet == 1) = true := by decide

theorem test_meets_IdleMillisecond :
    State.reset.pending = [] ∧ run.pending = [] ∧ parking.pending = [] ∧ awake.pending = [] ∧
    parked.power = .parked ∧ State.reset.power = .off ∧ run.power = .run ∧ parking.power = .parking ∧
    awake.power = .serviceAwake := by decide

/-- RUN with every record of the machine at its last age, 250 ms, and a joint and the frame HELD. -/
def lastAge : State :=
  { run with meas := { run.meas with
      boom := { run.meas.boom with quality := .held, age := 249 }
      frame := { run.meas.frame with quality := .held, age := 249 }, slew := { run.meas.slew with age := 249 } } }

/-- What a millisecond of these records queues (R5, R7, R13), and no expiry of a joint that stands INVALID. -/
theorem test_millisecond_queues :
    leaves (step lastAge) (fun t => [Instr.jointInvalidExpiry .boom, .frameInvalidExpiry, .slewExpiry].all
      fun c => t.pending.contains c) = true ∧
    leaves (step lastAge) (fun t => t.pending.contains (.jointHeldExpiry .boom)) = false := by decide

theorem test_meets_PowerStateMoves_key :
    powerAfter (exec .keyOn parking) = some .run ∧ powerAfter (exec .keyOn parked) = some .run ∧
    powerAfter (exec .keyOn awake) = some .run ∧ powerAfter (exec .keyOff run) = some .parking := by
  decide

theorem test_meets_PowerStateMoves_start :
    powerAfter (exec .coldStart State.reset) = some .starting ∧
    powerAfter (exec .startingReadComplete { State.reset with power := .starting }) = some .parked ∧
    powerAfter (exec .startingReadComplete { run with power := .starting }) = some .run ∧
    powerAfter (exec (.powerLoss .supplyRemoved) run) = some .off := by decide

/-- SERVICE_AWAKE with the timer at its end. -/
def awakeOver : State := { awake with ctrl := coldCtrl }

/-- PARKING with the checkpoint ended and a plan image on the store port. -/
def parkingImage : State :=
  { parking with
    ctrl := { coldCtrl with imageWrite := .onPort }, plan := { coldPlanStore with image := .storing } }

/-- PARKING with nothing left to write. -/
def parkingDone : State := { parking with ctrl := coldCtrl }

theorem test_meets_PowerStateMoves_parked :
    powerAfter (exec (.wake (frameFrom .gateway [])) parked) = some .serviceAwake ∧
    powerAfter (exec (.sleep (frameFrom .gateway [])) awake) = some .parked ∧
    powerAfter (exec .serviceAwakeTimerExpiry awakeOver) = some .parked ∧
    powerAfter (exec (.checkpointReport false) parking) = some .parked ∧
    powerAfter (exec (.planImageWriteReport .written) parkingImage) = some .parked ∧
    powerAfter (exec .enterParked parkingDone) = some .parked := by decide

theorem test_meets_IdentifierRoundTrip : ∀ k : RxKind, k.number ≠ 0x0FF := by intro k; cases k <;> decide

theorem test_meets_RootsAndRounding : 0 < 2 ∧ roundDiv 1 2 = 1 ∧ roundDiv (-1) 2 = -1 ∧ isqrt 5759999 = 2399 := by
  decide

theorem test_meets_SineQuadrants :
    sine 9000 = 16384 ∧ sine 9001 = 16384 ∧ sine 18000 = 0 ∧ sine 18001 = -3 ∧ sine 27000 = -16384 ∧
    sine 27001 = -16384 ∧ sine 35999 = -3 := by decide

/-- The least, middle and greatest of three USED readings at the tolerance and beyond it. -/
theorem test_meets_VoteOfThree :
    vote (ok3 0 150 75) = (some 75, .good) ∧ vote (ok3 151 0 75) = (some 75, .two) ∧
    vote (ok3 301 150 0) = (some 75, .two) ∧ vote (ok3 0 301 151) = (some 226, .two) ∧
    vote (ok3 0 151 302) = (none, .invalid) ∧ (ok3 0 150 75).all (fun c => c.use == .used) = true := by decide

/-! Samples -/

/-- A JOINT_SAMPLE of a joint code: three readings of 0, all OK. -/
def jointFrame (code : Byte) : Frame := frameFrom .sensor [code, 0, 0, 0, 0, 0, 0, 0]

/-- Two USED channels at the tolerance and beyond it, and one (R4). -/
theorem test_meets_JointAndFrameSamples_used :
    let two (b : Int) : List Channel :=
      [storeChannel ⟨2000, .ok⟩, storeChannel ⟨b, .ok⟩, storeChannel ⟨0, .fault⟩]
    ((two 2150).filter fun c => decide (c.use = .used)).map (fun c => c.reading) = [2000, 2150] ∧
    ((two 18000).filter fun c => decide (c.use = .used)).map (fun c => c.reading) = [2000] ∧
    vote (two 2150) = (some 2075, .two) ∧ vote (two 2151) = (none, .invalid) ∧
    vote (two 18000) = (none, .invalid) := by decide

/-- A state that an event of RUN leaves from a list with room, one entry raised among at most four. -/
def raises (a : Answer) (c : AlertCode) (subj : Subject) (priority : Nat) : Bool :=
  leaves a fun t => decide (t.alerts.nextSeq ≤ 5) &&
    (t.alerts.find c subj).map (fun e => (e.priority, e.repeats)) == some (priority, 1)

/-- A joint's vote TWO raises JOINT_SPREAD, a vote INVALID JOINT_INVALID, a frame out of range FRAME_INVALID,
and an expiry JOINT_INVALID (R6, R7, R146). -/
theorem test_measure_alerts :
    raises (exec (.jointSample (frameFrom .sensor ([0, 0, 0, 100, 0, 200, 0, 0] : List Byte))) run)
      .jointSpread (.joint .boom) 3 = true ∧
    raises (exec (.jointSample (frameFrom .sensor ([1, 0, 0, 0, 2, 0, 4, 0] : List Byte))) run)
      .jointInvalid (.joint .stick) 6 = true ∧
    raises (exec (.frameSample (frameFrom .sensor ([0x50, 0x46, 0, 0] : List Byte))) run)
      .frameInvalid .none 6 = true ∧
    raises (exec (.jointInvalidExpiry .boom) { run with meas := { run.meas with
      boom := { coldJoint with age := 250, quality := .held } } }) .jointInvalid (.joint .boom) 6 = true := by
  refine ⟨?_, ?_, ?_, ?_⟩ <;> decide +kernel

/-- A FRAME_SAMPLE. -/
def frameFrame (pitch roll : Int) : Frame := frameFrom .sensor (putS16 pitch ++ putS16 roll)

theorem test_meets_JointAndFrameSamples :
    run.power = .run ∧ Delivered run .jointSample (jointFrame 2) .sensor ∧
    jointOf (u8 (jointFrame 2).data 0) = some .bucket ∧ Delivered run .jointSample (jointFrame 3) .sensor ∧
    jointOf (u8 (jointFrame 3).data 0) = none := by unfold Delivered Heard; decide

theorem test_meets_JointAndFrameSamples_range :
    Delivered run .frameSample (frameFrame (-18000) 17999) .sensor ∧
    s16 (frameFrame (-18000) 17999).data 0 = -18000 ∧ s16 (frameFrame (-18000) 17999).data 2 = 17999 ∧
    Delivered run .frameSample (frameFrame (-18001) 0) .sensor ∧
    s16 (frameFrame (-18001) 0).data 0 = -18001 := by unfold Delivered Heard; decide

/-- A SLEW_SAMPLE with its status and index-seen byte. -/
def slewFrame (speed : Int) (flags : Byte) : Frame :=
  frameFrom .sensor ([0, 0] ++ putS16 speed ++ [0, 0, flags])

theorem test_meets_SlewSample :
    Delivered run .slewSample (slewFrame 0 2) .sensor ∧ u8 (slewFrame 0 2).data 6 / 2 % 4 = 1 ∧
    Delivered run .slewSample (slewFrame 223 0) .sensor ∧ u8 (slewFrame 223 0).data 6 / 2 % 4 = 0 ∧
    bitAt (slewFrame 223 0).data 6 0 = false ∧ bitAt (slewFrame 223 1).data 6 0 = true ∧
    roundDiv (s16 (slewFrame 223 0).data 2 * 36000) run.meas.slew.nrev = 201 := by
  unfold Delivered Heard; decide

/-- A slew that has passed the index mark, with this count latched. -/
def passed (c : Nat) (t : Turn) : SlewRec :=
  { coldSlew 40000 0 with
    firstPass := some (c, t), lastMoving := match t with | .left => .left | .right => .right }

theorem test_meets_IndexPass :
    ((((40800 : Nat) : Int) - 0) % 65536 - 40000).natAbs = 40000 / 50 ∧
    (passed 0 .left).indexPass 40800 40000 false = ({ passed 40800 .left with
      index := 40800, nrev := 40800, measured := true, state := .calibrated }, false) ∧
    (passed 0 .left).indexPass 40801 40000 false =
      ({ passed 40801 .left with index := 40801, state := .indexed }, true) ∧
    (passed 40801 .right).indexPass 0 40000 false =
      ({ passed 0 .right with index := 0, state := .indexed }, true) ∧
    (passed 0 .left).indexPass 40801 40000 true =
      ({ passed 40801 .left with index := 40801, state := .indexed }, false) := by decide

/-- RUN with a slew that has passed the mark to the left, before a SLEW_SAMPLE that rejects its candidate. -/
def passing : State :=
  { run with meas := { run.meas with slew := passed 0 .left }, env := { run.env with unindexed := false } }

/-- The SLEW_SAMPLE with the count 40801 latched at the index mark. -/
def passFrame : Frame := frameFrom .sensor ([0, 0] ++ putS16 223 ++ put16 40801 ++ [1])

theorem test_meets_SlewSample_pass :
    Delivered passing .slewSample passFrame .sensor ∧ bitAt passFrame.data 6 0 = true ∧
    u16 passFrame.data 4 = 40801 ∧ sectorNear passing.env.slots = false ∧
    leaves (exec (.slewSample passFrame) passing) (fun t => t.meas.slew.index == 40801 &&
      t.meas.slew.firstPass == some (40801, .left) && decide (t.alerts.nextSeq < 23) &&
      (t.alerts.find .slewCalFailed .none).isSome) = true := by
  unfold Delivered Heard
  refine ⟨?_, ?_, ?_, ?_, ?_⟩ <;> decide +kernel

/-- Each FAULT sample raises SLEW_ENCODER_FAULT: two of them leave one entry that counts two (R10, R136). -/
theorem test_encoder_fault_counts :
    leaves (exec (.slewSample (slewFrame 0 2)) run) (fun t => leaves (exec (.slewSample (slewFrame 0 2)) t)
      fun u => (u.alerts.find .slewEncoderFault .none).map (fun e => e.repeats) == some 2) = true := by
  decide +kernel

/-- A PRESSURE_SAMPLE. -/
def pressFrame (pump travel implement : Nat) : Frame :=
  frameFrom .sensor (put16 pump ++ put16 travel ++ put16 implement)

theorem test_meets_PressureSample :
    Delivered run .pressureSample (pressFrame 300 10 9) .sensor ∧
    min 700 (u16 (pressFrame 300 10 9).data 0) = 300 ∧ min 700 (u16 (pressFrame 300 10 9).data 2) = 10 ∧
    min 700 (u16 (pressFrame 300 10 9).data 4) = 9 ∧ run.meas.press.travelFlag = false := by
  unfold Delivered Heard; decide

/-- A pilot flag set in IDLING: the Economy Unit is ACTIVE, its timer 0 and its window empty (R108, R109). -/
theorem test_pilot_ends_idling :
    leaves (exec (.pressureSample (pressFrame 0 0 10)) { run with
      econ := { run.econ with idle := .idling, idleTimer := 9000, count := 3, sum := 200, down := 1 } })
      (fun t => t.econ.idle == .active && t.econ.idleTimer == 0 && t.econ.count == 0 && t.econ.sum == 0 &&
        t.econ.down == 0 && t.econ.selection == run.econ.selection) = true := by decide +kernel

/-- RUN about to complete a cycle, with an item of one dig cycle (R37, R38). -/
def swung : State :=
  { run with
    pose := { record := { workedPose with zt := 999 }, tilt := false }
    cycle := { coldCycle 7 with state := .swingEmpty }
    svc := { run.svc with
      meters := { zeroMeters with digCycles := 7 }
      items := [{ defn := { number := 3, label := 1, basis := .digCycles, interval := 1, warn := 90, margin := 5,
                            cabSignOff := true, funcDerate := none, stepDerate := none },
                  usage := newUsage, alert := none }] } }

/-- A completion counts on the monitor, the meter and the item, which falls due and raises its alert. -/
theorem test_cycle_counts :
    ItemsDistinct swung ∧
    leaves (exec (.pressureSample (pressFrame 250 0 0)) swung) (fun t => t.cycle.state == .digging &&
      t.cycle.total == 8 && t.svc.meters.digCycles == 8 && t.econ.cycleCopy == .digging &&
      t.svc.items.map (fun i => (i.usage.used, i.usage.state, i.alert)) == [(1, .due, some .due)]) = true ∧
    raises (exec (.pressureSample (pressFrame 250 0 0)) swung) .serviceDue (.item 3) 4 = true := by
  unfold ItemsDistinct
  refine ⟨?_, ?_, ?_⟩ <;> decide +kernel

/-- RUN with the boom joint and the frame of an age and quality, and the slew of that age. -/
def aged (age : Nat) (q : JointQuality) (fq : FrameQuality) : State :=
  { run with meas := { run.meas with
      boom := { coldJoint with age := age, quality := q }
      frame := { coldFrame with age := age, quality := fq }
      slew := { run.meas.slew with age := age } } }

theorem test_meets_RecordExpiries :
    60 ≤ ((aged 60 .two .good).meas.joint .boom).age ∧
    ((aged 60 .two .good).meas.joint .boom).quality = .two ∧ (aged 60 .two .good).meas.frame.quality = .good ∧
    250 ≤ ((aged 250 .held .held).meas.joint .boom).age ∧
    ((aged 250 .held .held).meas.joint .boom).quality = .held ∧
    (aged 250 .held .held).meas.frame.quality = .held ∧ 250 ≤ (aged 250 .held .held).meas.slew.age ∧
    ({ run with cycle := { run.cycle with rest := 10000 } }).inForce.limits.abandonTime * 1000 = 10000 := by
  decide

theorem test_meets_SamplesDiscardedOutsideRun :
    parking.power ≠ .run ∧ RxKind.isRequest .jointSample = false ∧
    Delivered parking .jointSample (jointFrame 0) .sensor ∧ parking.caps.sending = false ∧
    parking.econ.engine.running = false := by unfold Delivered Heard; decide

/-! Pose, cycle and guidance -/

theorem test_meets_PoseEvaluation :
    (workedIn.boomQ ≠ .invalid ∧ workedIn.stickQ ≠ .invalid ∧ workedIn.bucketQ ≠ .invalid ∧
      workedIn.frameQ ≠ .invalid) ∧ coldMeas 40000 0 ∈ [coldMeas 40000 0] ∧
    (coldMeas 40000 0).poseIn.boomQ = .invalid := by decide

/-- Each degrade reason of the worked case, and none (R30). -/
theorem test_degrade_reasons :
    [workedIn, { workedIn with boomQ := .two }, { workedIn with stickQ := .held }, { workedIn with frameQ := .held },
     { workedIn with roll := -1001 }].map (fun i => (coldPose.evaluate builtinGeometry i).reasons.toByte) =
      [0, 1, 2, 4, 8] := by decide

/-- What the Cycle Monitor reads with the tip in the dig and the slew moving. -/
def digging : CycleIn :=
  { pose := { workedPose with zt := 999 }, pump := 250, dir := .left, travel := false, limits := builtinLimits }

theorem test_meets_CycleEvaluation :
    (coldCycle 0).rest < digging.limits.abandonTime * 1000 ∧ digging.travel = false ∧
    digging.pose.quality ≠ .invalid ∧
    (({ coldCycle 7 with state := .swingEmpty }).evaluate digging) =
      ({ coldCycle 8 with state := .digging, session := 1 }, true) ∧
    digging.limits.abandonTime * 1000 ≤ ({ coldCycle 0 with rest := 10000 }).rest := by decide

/-- RUN with the pose of the worked case. -/
def posed : State := { run with pose := { record := workedPose, tilt := false } }

theorem test_meets_GradeRequests :
    Delivered posed .benchmarkCapture (frameFrom .cab [0, 0]) .cab ∧ posed.power = .run ∧
    posed.pose.record.slew = some 4500 ∧ posed.pose.record.plan = some (9970, 9970) ∧
    posed.pose.record.quality = .good ∧ run.pose.record.slew = none ∧
    Delivered run .guardSet (frameFrom .cab [1]) .cab ∧ u8 (frameFrom .cab [1]).data 0 = 1 ∧
    Delivered run .guardSet (frameFrom .cab [2]) .cab ∧ 1 < u8 (frameFrom .cab [2]).data 0 := by
  unfold Delivered Heard; decide

theorem test_meets_GradeRequests_parking :
    Delivered parking .benchmarkCapture (frameFrom .cab [0, 0]) .cab ∧
    Delivered parking .guardSet (frameFrom .cab [1]) .cab ∧ parking.power ≠ .run := by
  unfold Delivered Heard; decide

theorem test_meets_GuidanceRecord :
    workedPanels.Pairwise (fun p q => p.number < q.number) ∧ workedPose.slew.isSome = workedPose.plan.isSome ∧
    workedPose.quality ≠ .invalid ∧ workedBench.state = .current ∧
    (guidance true workedPanels { workedPose with slew := some 20000 } workedBench).status = .noPanel ∧
    (guidance true workedPanels workedPose coldBench).status = .noBenchmark ∧
    (guidance true workedPanels { workedPose with quality := .degraded } workedBench).status =
      .lowConfidence := by decide

theorem test_meets_GuardDemand :
    let at' (zt : Int) := workedGrade.evaluate true workedForce { workedPose with zt := zt }
    ((at' 1591).demand = 1000 ∧ (at' 1591).guide.cutFill = some 400) ∧ (at' 1590).demand = 997 ∧
    (at' 1192).demand = 152 ∧ (at' 1391).demand = 575 ∧ (at' 1191).guide.status = .valid ∧
    (at' 1191).guide.cutFill = some 0 ∧
    (({ workedGrade with bench := coldBench }).evaluate true workedForce workedPose).guard = .suspended := by
  decide

/-! Fences and the merger -/

theorem test_meets_SectorFence :
    turn lane.start lane.stop < turn 26300 lane.start + 6000 ∧ turn lane.start lane.stop < turn lane.start 19999 ∧
    turn lane.start 20000 ≤ turn lane.start lane.stop ∧ turn lane.start 26000 ≤ turn lane.start lane.stop ∧
    turn lane.start lane.stop < turn lane.start 26001 ∧ turn 19999 lane.start = ((1 : Nat) : Int) ∧
    turn lane.stop 26001 = ((1 : Nat) : Int) ∧ turn 23000 lane.stop = ((3000 : Nat) : Int) ∧
    turn lane.start 23000 = ((3000 : Nat) : Int) ∧ lane.kind = .sector := by decide

/-- A fence without a valid slew angle, and ENVELOPE_CRAWL's four rows (R67, R68). -/
theorem test_crawl :
    ((judgeFence builtinLimits lane workedPose none).state,
      (judgeFence builtinLimits lane workedPose none).demands) =
      (.indeterminate, { Row.free with slewLeft := 100, slewRight := 100 }) ∧
    [(false, true), (true, false), (false, false), (true, true)].map (fun p => crawlRow 100 p.1 p.2) =
      [{ Row.free with slewLeft := 100, slewRight := 100 },
       { Row.free with slewLeft := 100, slewRight := 100, boomUp := 100 },
       { Row.free with slewLeft := 100, slewRight := 100, boomUp := 100 }, Row.free] := by decide

theorem test_meets_HeightFence :
    builtinLimits.crawl ≤ 1000 ∧ line.limit = some 11000 ∧ line.kind = .ceiling ∧ turn line.start line.stop ≠ 0 ∧
    turn line.start 12000 ≤ turn line.start line.stop ∧ turn line.start line.stop < turn line.start 11999 ∧
    turn 11999 line.start = ((1 : Nat) : Int) ∧ turn line.stop 11999 = ((29999 : Nat) : Int) ∧
    workedPose.quality ≠ .invalid ∧ coldPose.quality = .invalid ∧
    turn ({ line with stop := 12000 }).start ({ line with stop := 12000 }).stop = 0 := by decide

/-- The states of a height fence at the bounds of its ranges: r of 1500, 1499, 1, 0, -49 and -50. -/
theorem test_heightFence_bounds :
    [9500, 9501, 10999, 11000, 11049, 11050].map (fun top => (atLine 12500 top).1) =
      [FenceState.clear, .approach, .approach, .held, .held, .breached] := by decide

/-- A FENCE_SET that carries a band. -/
def fenceFrame (p : Party) (slot kind : Byte) (start stop : Nat) (limit : Int) (band : Nat) : Frame :=
  frameFrom p ([slot, kind, 1] ++ put16 start ++ put16 stop ++ putS16 limit ++ put16 band)

/-- RUN with the line's ceiling in slot 1. -/
def lined : State :=
  { run with env := { run.env with
      slots := settleSlots ((setSlotFence run.env.slots 1 (some (siteFence line))).map fun c =>
        c.evaluate run.inForce.limits run.pose.record none) } }

theorem test_meets_FenceSet_tight :
    atLeastAsTight { line with start := 11000, stop := 19000, limit := some 10500 } line = true ∧
    atLeastAsTight { line with limit := some 11001 } line = false ∧ lined.power = .run ∧
    lined.env.slots.length = 16 ∧
    ((slotAt lined.env.slots 1).fence.bind fun x => x.site) = some line ∧
    ((slotAt lined.env.slots 10).fence.bind fun x => x.site) = none := by decide

theorem test_meets_FenceSet_slots :
    Delivered lined .fenceSet (fenceFrame .cab 0 0 0 100 0 100) .cab ∧
    (readFence (fenceFrame .cab 17 0 0 100 0 100).data).slot = 17 ∧
    Delivered lined .fenceSet (fenceFrame .gateway 11 0 0 100 0 100) .gateway ∧
    (readFence (fenceFrame .gateway 16 0 0 100 0 100).data).slot = 16 ∧
    Delivered parking .fenceSet (fenceFrame .cab 16 0 0 100 0 100) .cab := by unfold Delivered Heard; decide

theorem test_meets_FenceSet_range :
    (readFence (fenceFrame .cab 16 4 0 100 0 100).data).kind = none ∧
    (readFence (fenceFrame .cab 16 0 36000 100 0 100).data).start = 36000 ∧
    (readFence (fenceFrame .cab 16 0 100 100 0 100).data).kind = some .sector ∧ turn 100 100 = 0 ∧
    (readFence (fenceFrame .cab 16 0 0 100 0 0).data).band = some 0 := by decide

theorem test_meets_FenceSet_taken :
    readFence (fenceFrame .cab 11 1 0 35999 11000 10001).data =
      { slot := 11, kind := some .ceiling, start := 0, stop := 35999, limit := 11000, band := some 10001 } ∧
    readFence (fenceFrame .gateway 1 0 0 100 0 9000).data =
      { slot := 1, kind := some .sector, start := 0, stop := 100, limit := 0, band := some 9000 } ∧
    Delivered lined .fenceSet (fenceFrame .cab 1 1 11000 19000 10500 1500) .cab ∧
    readFence (fenceFrame .cab 1 1 11000 19000 10500 1500).data =
      { slot := 1, kind := some .ceiling, start := 11000, stop := 19000, limit := 10500, band := some 1500 } := by
  unfold Delivered Heard; decide

/-- A fence set in CAB slot 12 without a pose raises FENCE_INDETERMINATE for it (R71), cleared again it leaves
no entry. -/
theorem test_fence_alerts :
    raises (exec (.fenceSet (fenceFrame .cab 12 0 0 100 0 100)) { run with env := { run.env with
      unindexed := true } }) .fenceIndeterminate (.slot 12) 6 = true ∧
    leaves (exec (.fenceSet (fenceFrame .cab 12 0 0 100 0 100)) run) (fun t =>
      leaves (exec (.fenceClear (frameFrom .cab [12])) t) fun u =>
        (u.alerts.find .fenceIndeterminate (.slot 12)).isNone) = true := by
  refine ⟨?_, ?_⟩ <;> decide +kernel

theorem test_meets_FenceClearAndConfirm :
    Delivered lined .fenceClear (frameFrom .cab [1]) .cab ∧ Delivered lined .fenceClear (frameFrom .cab [0]) .cab ∧
    Delivered lined .fenceClear (frameFrom .gateway [11]) .gateway ∧
    Delivered lined .fenceClear (frameFrom .cab [16]) .cab ∧ u8 (frameFrom .cab [17]).data 0 = 17 ∧
    Delivered parking .fenceClear (frameFrom .cab [1]) .cab ∧
    Delivered lined .fencesConfirm (frameFrom .cab []) .cab ∧
    Delivered parking .fencesConfirm (frameFrom .cab []) .cab := by
  unfold Delivered Heard
  refine ⟨?_, ?_, ?_, ?_, ?_, ?_, ?_, ?_⟩ <;> decide

theorem test_meets_MergeTakesLeast :
    freeTable.slots.length = 16 ∧ freeTable.items.length = 24 ∧
    (List.range 16).map (fun k => (Contributor.fence (k + 1), freeTable.slots.getD k Row.free)) =
      freeTable.slots.zipIdx.map fun p => (Contributor.fence (p.2 + 1), p.1) := by decide

/-- RUN with a CAP_SET sent and the echo check in a state. -/
def echoed (c : EchoState) : State :=
  { run with caps := { run.caps with lastSent := some (Eight.all 250), check := c } }

theorem test_meets_ValveEcho :
    Delivered (echoed .agreed) .valveStatus (frameFrom .valve (List.replicate 8 250)) .valve ∧
    Delivered (echoed .agreed) .valveStatus (frameFrom .valve (List.replicate 8 251)) .valve ∧
    (echoed .agreed).caps.lastSent ≠ none ∧
    (readEcho (frameFrom .valve (List.replicate 8 250)).data).get .boomUp = 250 ∧
    run.caps.check = .noReference ∧ (echoed .disagreeing).caps.check = .disagreeing ∧
    (echoed .disagreeing).caps.echoTimer = 0 ∧ (echoed .agreed).power = .run := by unfold Delivered Heard; decide

/-- A whole echo that disagrees changes the echo record (R93), a key-off clears it (R95). -/
theorem test_echo_record_changes :
    leaves (exec (.valveStatus (frameFrom .valve (List.replicate 8 251))) (echoed .agreed))
      (fun t => t.caps.check == .disagreeing) = true ∧
    leaves (exec .keyOff (echoed .agreed)) (fun t => t.caps.lastSent == none) = true := by decide +kernel

/-- RUN with every period run to a time. -/
def after (n : Nat) : State :=
  { run with periods := { grade := n, envelope := n, capSet := n, step := n, econ := n } }

theorem test_meets_PeriodicMessages :
    (after 500).power = .run ∧ CapsCurrent (after 500) ∧ StepCurrent (after 500) ∧ OfferCurrent (after 500) ∧
    500 ≤ (after 500).periods.econ := by
  unfold CapsCurrent StepCurrent OfferCurrent
  refine ⟨by decide, ?_, ?_, ?_, by decide⟩ <;> decide +kernel

/-- RUN with one command waiting in its queue. -/
def next (c : Instr) : State := { run with pending := [c] }

/-- A message of a kind waits on the implement port. -/
def waiting (t : State) (k : TxKind) (data : List Byte) : Bool :=
  t.ports.implement.list.any fun e => e.kind == k && e.data == data

theorem test_meets_PeriodicMessages_change :
    CapsCurrent run ∧ StepCurrent run ∧ OfferCurrent run ∧
    leaves (step (next (.guardSet (frameFrom .cab [1])))) (fun t =>
      t.power == .run && t.grade.guard != run.grade.guard && offerKey t.alerts != offerKey run.alerts &&
        waiting t .gradeStatus (gradeStatusData t.grade) && waiting t .alertOffer (alertOfferData t.alerts)) = true ∧
    leaves (step (next (.econMode (frameFrom .cab [1, 1])))) (fun t =>
      t.power == .run && t.step.issued != run.step.issued && econStatusWith t 0 != econStatusWith run 0 &&
        waiting t .econStatus (econStatusData t)) = true ∧
    leaves (step (next (.frameNotForPart 0x0FF (frameFrom .cab [])))) (fun t =>
      t.power == .run && run.links.cab.state != .online && t.links.cab.state == .online &&
        waiting t .alertOffer (alertOfferData t.alerts)) = true := by
  unfold CapsCurrent StepCurrent OfferCurrent
  refine ⟨?_, ?_, ?_, ?_, ?_, ?_⟩ <;> decide +kernel

theorem test_meets_PeriodicMessages_fence :
    leaves (step (next (.fenceSet (fenceFrame .cab 12 0 0 100 0 100)))) (fun t =>
      t.power == .run && envelopeStatusData t != envelopeStatusData run &&
        waiting t .envelopeStatus (envelopeStatusData t)) = true := by decide +kernel

/-- RUN with the CAP_SET at hand waiting. -/
def capsAtHand : State :=
  { run with ports := { coldPorts with implement := { coldPort with
      list := [{ kind := .capSet, dest := 0x31, data := capSetData run.caps.caps }] } } }

theorem test_meets_PeriodicMessages_waiting : WaitingCurrent capsAtHand := by
  intro _
  refine ⟨fun d h => ?_, fun d h => ?_⟩
  · exact (TxEntry.mk.inj (List.mem_singleton.mp h)).2.2
  · exact absurd h (List.not_mem_nil)

/-! Economy and service accounts -/

/-- An ENGINE_STATUS with the running flag as given. -/
def engineFrame (running : Byte) : Frame := frameFrom .engine [0, 0, 126, 0x21, 0x4E, 10, running]

/-- RUN in MANUAL. -/
def manual : State := { run with econ := { run.econ with mode := .manual } }

theorem test_meets_EngineStatus :
    Delivered run .engineStatus (engineFrame 1) .engine ∧ (readEngine (engineFrame 1).data).running = true ∧
    (readEngine (engineFrame 0).data).running = false ∧ run.econ.idle = .active ∧ run.econ.mode = .auto ∧
    run.econ.count + 1 < 32 ∧ manual.econ.mode = .manual ∧ (readEngine (engineFrame 1).data).load = 126 ∧
    (readEngine (engineFrame 1).data).fuel = 20001 ∧ (readEngine (engineFrame 1).data).derate = 10 := by
  unfold Delivered Heard; decide

/-- Fuel that completes a litre gives it to the meter and to the items on fuel (R119, R123). -/
theorem test_fuel_gain :
    let v := Service.addFuel { swung.svc with
      meters := { zeroMeters with millilitres := 999, fuelRem := 35999 }
      items := swung.svc.items.map fun i => { i with defn := { i.defn with basis := .fuelL } } } 1
    v.meters.litres = 1 ∧ v.meters.millilitres = 0 ∧ v.items.map (fun i => i.usage.used) = [1] := by
  decide

theorem test_meets_WindowCloses :
    builtinEcon.Sound ∧ ({ coldEcon 4 10 10 with count := 31, sum := 1880 }).count = 31 ∧ (1880 + 100) / 32 = 61 ∧
    (stepRow builtinEcon 6).threshold ≤ 61 ∧ 61 < (stepRow builtinEcon 7).threshold ∧
    61 < (stepRow builtinEcon 8).threshold ∧ 61 < (stepRow builtinEcon 9).threshold ∧
    61 < (stepRow builtinEcon 10).threshold := by
  unfold EconSettings.Sound IsStep
  refine ⟨?_, ?_⟩ <;> decide

theorem test_meets_StepJudgement :
    briefCase.idle = .active ∧ briefCase.derate < briefCase.chosen ∧
    ({ briefCase with derate := 6 }).chosen ≤ ({ briefCase with derate := 6 }).derate ∧
    ({ briefCase with idle := .idling }).idle = .idling := by decide

theorem test_meets_EconomyRequests :
    max 1 (min 10 0) = 1 ∧ max 1 (min 10 1) = 1 ∧ max 1 (min 10 10) = 10 ∧ max 1 (min 10 11) = 10 ∧
    Delivered run .econMode (frameFrom .cab [0, 0]) .cab ∧ Delivered run .econMode (frameFrom .cab [1, 11]) .cab ∧
    Delivered run .econMode (frameFrom .cab [2, 5]) .cab ∧ Delivered parking .econMode (frameFrom .cab [0, 0]) .cab ∧
    Delivered run .econCap (frameFrom .cab [0]) .cab ∧
    Delivered run .siteStepCap (frameFrom .gateway [10]) .gateway := by
  unfold Delivered Heard
  refine ⟨?_, ?_, ?_, ?_, ?_, ?_, ?_, ?_, ?_, ?_⟩ <;> decide

/-- RUN charging step 1, its accumulator and the high-pressure remainder full, and the idle delay reached. -/
def full : State :=
  { run with
    svc := { run.svc with meters := { zeroMeters with
      acc := zeroMeters.acc.set 0 { whole := 0, rem := 36000 }, highRem := 60000 } }
    econ := { run.econ with idleTimer := 8000 } }

theorem test_meets_MeterAndIdleTimes :
    36000 ≤ (full.svc.meters.acc.getD (1 - 1) { whole := 0, rem := 0 }).rem ∧ 60000 ≤ full.svc.meters.highRem ∧
    full.power = .run ∧ full.econ.idle = .active ∧ full.meas.press.travelFlag = false ∧
    full.meas.press.implementFlag = false ∧ full.inForce.econ.idleDelay * 1000 ≤ full.econ.idleTimer ∧
    (full.svc.meters.hour + 1) % 10 ≠ 0 := by decide

/-- At a multiple of ten hundredth-hours a checkpoint starts. -/
theorem test_meets_MeterAndIdleTimes_checkpoint :
    leaves (exec (.hundredthHourCompletion 1)
      { full with svc := { full.svc with meters := { full.svc.meters with hour := 9 } } }) (fun t =>
        t.svc.meters.hour % 10 == 0 && t.ctrl.writing.isSome) = true := by decide +kernel

/-- An item of 100 engine hours, due soon at 90 and with a margin of 21. -/
def oil : ItemDef :=
  { number := 3, label := 1, basis := .engineHours, interval := 100, warn := 90, margin := 21, cabSignOff := true,
    funcDerate := none, stepDerate := some 5 }

/-- The item in a state with a used value. -/
def oilAt (st : ItemState) (used : Nat) : Item :=
  { defn := oil, usage := { newUsage with used := used, state := st }, alert := none }

/-- An item passes its thresholds at 90, 100 and 121. -/
theorem test_meets_ItemGain :
    [89, 90, 99, 100, 120, 121].map (fun n => ((oilAt .ok 0).gain n).usage.state) =
      [ItemState.ok, .dueSoon, .dueSoon, .due, .due, .overdue] ∧
    ((oilAt .due 100).defer 10).usage.deferredUntil = some 110 ∧
    (((oilAt .due 100).defer 10).gain 9).usage.state = .deferred ∧
    (((oilAt .due 100).defer 10).gain 10).usage.state = .overdue := by decide

/-- RUN with the item in its table. -/
def dueRun : State := { run with svc := { run.svc with items := [oilAt .due 100] } }

/-- A SERVICE_DEFER of item 3. -/
def deferFrame (amount : Nat) : Frame := frameFrom .cab (3 :: put32 amount)

theorem test_meets_ServiceRequests_defer :
    Delivered dueRun .serviceDefer (deferFrame 11) .cab ∧ findItem dueRun.svc.items 3 = some (oilAt .due 100) ∧
    u32 (deferFrame 10).data 1 = 10 ∧ u32 (deferFrame 11).data 1 = 11 ∧ u32 (deferFrame 0).data 1 = 0 ∧
    oil.margin / 2 = 10 ∧ findItem run.svc.items 3 = none ∧
    Delivered parking .serviceDefer (deferFrame 10) .cab := by unfold Delivered Heard; decide

theorem test_meets_ServiceRequests_done :
    Delivered dueRun .serviceDone (frameFrom .cab [3]) .cab ∧
    Delivered dueRun .serviceDone (frameFrom .gateway [3]) .gateway ∧
    Delivered awake .serviceDone (frameFrom .gateway [3]) .gateway ∧
    Delivered parking .serviceDone (frameFrom .cab [3]) .cab ∧ oil.cabSignOff = true ∧
    findItem ({ dueRun with svc := { dueRun.svc with
      items := [{ oilAt .due 100 with defn := { oil with cabSignOff := false } }] } }).svc.items 3 =
      some { oilAt .due 100 with defn := { oil with cabSignOff := false } } := by unfold Delivered Heard; decide

/-! Alerts -/

/-- An entry of the Alert List. -/
def entry (c : AlertCode) (subj : Subject) (priority seq : Nat) (inService : Bool) : AlertEntry :=
  { code := c, subject := subj, priority := priority, seq := seq, acked := false, inService := inService,
    resolved := false, repeats := 1, hourAt := 0 }

/-- A full list: item reminders of priority 2, their raise sequences rising. -/
def fullList (inService : Nat → Bool) (priority : Nat → Nat) : Alerts :=
  { entries := (List.range 24).map fun k => entry .serviceDueSoon (.item (k + 1)) (priority k) (k + 1) (inService k)
    mask := 0, notListed := false, nextSeq := 25, lastOffer := none }

/-- A list with one entry in service. -/
def served : Alerts :=
  { emptyAlerts 3 with entries := [entry .fenceHeld (.slot 2) 5 2 true, entry .jointSpread (.joint .boom) 3 1 false] }

theorem test_meets_RaiseAndWithdraw :
    (fullList (fun _ => false) (fun _ => 2)).Sound ∧ (fullList (fun _ => false) (fun _ => 2)).entries.length = 24 ∧
    served.Sound ∧ served.entries.length < 24 := by
  unfold Alerts.Sound
  refine ⟨?_, ?_, ?_, ?_⟩ <;> decide

/-- The premises of one raise of an event, of an alert that no entry has. -/
theorem test_meets_Raised :
    served.entries.length < 24 ∧
    (∀ e ∈ served.entries, ¬(e.code = .valveEchoMismatch ∧ e.subject = .none)) ∧
    (∀ e ∈ served.entries, ¬(e.code = .planTransferFailed ∧ e.subject = .none)) ∧
    (∀ e ∈ served.entries, ¬(e.code = .linkSilent ∧ e.subject = .party .valve)) ∧
    (∀ e ∈ served.entries, ¬(e.code = .linkOffline ∧ e.subject = .party .valve)) := by decide

/-- The candidate of a full list is its oldest lowest entry; a raise above it evicts it, one at its level does
not; a match is counted and may be lifted; a withdrawal in service resolves. -/
theorem test_raise_and_withdraw :
    (evictionCandidate (fullList (fun _ => false) (fun _ => 2)).entries).map (fun e => e.subject) =
      some (.item 1) ∧
    (raiseAlert (fullList (fun _ => false) (fun _ => 2)) .tilt .none 3 0).entries.head? =
      some { entry .tilt .none 3 25 false with hourAt := 0 } ∧
    (raiseAlert (fullList (fun _ => false) (fun _ => 2)) .tilt .none 2 0).notListed = true ∧
    (raiseAlert served .jointSpread (.joint .boom) 7 0).entries.map (fun e => (e.priority, e.repeats)) =
      [(7, 2), (5, 1)] ∧
    (withdrawAlert served .fenceHeld (.slot 2)).entries.map (fun e => e.resolved) = [true, false] := by
  decide

/-- RUN with an Alert List, the cab's link ONLINE. -/
def listed (a : Alerts) : State :=
  { run with alerts := a, links := { coldLinks with cab := { coldLink with state := .online } } }

theorem test_meets_AlertRequests_take :
    heardAlerts (listed served) .cab = served ∧
    Delivered (listed { served with entries := served.entries.drop 1 }) .alertTake (frameFrom .cab [0, 0]) .cab ∧
    (({ served with entries := served.entries.drop 1 } : Alerts).offered.map fun o =>
      (o.code.code, o.subject.byte)) = some (0, 0) ∧
    served.offered = none ∧ Delivered parking .alertTake (frameFrom .cab [0, 0]) .cab := by
  unfold Delivered Heard; decide

/-- RUN with the cab's link SILENT and its LINK_SILENT offered. -/
def cabSilent : State :=
  { run with
    alerts := { emptyAlerts 2 with entries := [entry .linkSilent (.party .cab) 2 1 false] }
    links := { coldLinks with cab := { coldLink with state := .silent } } }

/-- The hearing of the cab removes the entry that its take names. -/
theorem test_meets_AlertRequests_heard :
    (cabSilent.alerts.offered.map fun o => (o.code, o.subject)) = some (.linkSilent, .party .cab) ∧
    (heardAlerts cabSilent .cab).entries = [] ∧
    Delivered cabSilent .alertTake (frameFrom .cab [22, 0x21]) .cab := by unfold Delivered Heard; decide

theorem test_meets_AlertRequests_release :
    Delivered (listed served) .alertRelease (frameFrom .cab []) .cab ∧
    (served.top.map fun o => (o.code, o.resolved)) = some (.fenceHeld, false) ∧ run.alerts.top = none ∧
    AlertCode.cls .fenceHeld = .condition ∧ Delivered (listed served) .alertMask (frameFrom .cab [6]) .cab ∧
    Delivered (listed served) .alertMask (frameFrom .cab [7]) .cab ∧
    Delivered parking .alertMask (frameFrom .cab [7]) .cab := by unfold Delivered Heard; decide

/-! Plan Store -/

/-- A state with the transfer in a state. -/
def transfer (s : State) (x : XferState) : State := { s with plan := { s.plan with xfer := x } }

theorem test_meets_TransferRequestsAndTimers :
    Delivered run .planRequest (frameFrom .cab []) .cab ∧ run.plan.xfer = .idle ∧
    Delivered (transfer run .opened) .planRequest (frameFrom .cab []) .cab ∧
    ({ awake with plan := { awake.plan with startPending := true } }).plan.startPending = true ∧
    Delivered (transfer awake .receiving) .xferAbort (frameFrom .gateway []) .gateway ∧
    Delivered parking .xferAbort (frameFrom .gateway []) .gateway ∧
    (transfer run .requested).plan.requestTimer = 0 ∧ (transfer run .opened).plan.inactTimer = 0 := by
  unfold Delivered Heard; decide

/-- An XFER_OPEN of a section code and length. -/
def openFrame (code : Byte) (len : Nat) : Frame := frameFrom .gateway (code :: put16 len)

/-- RUN receiving a section of two bytes, the first of them written. -/
def receiving (k : Section) : State :=
  { run with plan := { run.plan with
      staging := run.plan.staging.set k { emptyRegion with bytes := [0x12] }
      xfer := .receiving, receiving := k, declared := 2, expected := 1, inactTimer := 20000 } }

theorem test_meets_SectionBytes_open :
    Delivered run .xferOpen (openFrame 6 128) .gateway ∧ sectionOf (u8 (openFrame 6 128).data 0) = some .index ∧
    u16 (openFrame 6 128).data 1 = regionSize .index ∧ regionSize .index < u16 (openFrame 6 129).data 1 ∧
    sectionOf (u8 (openFrame 7 0).data 0) = none ∧ Delivered parking .xferOpen (openFrame 0 0) .gateway ∧
    Delivered (receiving .limits) .xferOpen (openFrame 0 0) .gateway := by unfold Delivered Heard; decide

/-- An XFER_DATA at an offset. -/
def dataFrame (offset : Nat) (bytes : List Byte) : Frame := frameFrom .gateway (put16 offset ++ bytes)

theorem test_meets_SectionBytes_data :
    Delivered (receiving .limits) .xferData (dataFrame 1 [0x34]) .gateway ∧
    Delivered (receiving .limits) .xferData (dataFrame 1 []) .gateway ∧
    Delivered (receiving .limits) .xferData (dataFrame 1 (List.replicate 7 0)) .gateway ∧
    u16 (dataFrame 2 [0x34]).data 0 ≠ (receiving .limits).plan.expected ∧
    (receiving .limits).plan.declared < 1 + [0x34, (0x56 : Byte)].length ∧
    Delivered run .xferData (dataFrame 0 [0]) .gateway := by unfold Delivered Heard; decide

/-- The failure of a commit, and the values in force of one that passes. -/
def outcome (r : Except (Section × CommitReason) (ActivePlan × PlanContent)) :
    Option (Section × CommitReason) × Option InForce :=
  match r with
  | .error x => (some x, none)
  | .ok p => (none, some p.2.inForce)

theorem test_meets_SectionEnd :
    Delivered (receiving .limits) .xferEnd (frameFrom .gateway []) .gateway ∧
    (receiving .limits).plan.receiving ≠ .index ∧ Delivered run .xferEnd (frameFrom .gateway []) .gateway ∧
    Delivered (receiving .index) .xferEnd (frameFrom .gateway []) .gateway ∧
    outcome (judgeCommit (receiving .index).plan.staging) = (some (.index, .missing), none) := by
  unfold Delivered Heard; decide

/-- A whole plan of the built-in values with no panels, fences or items: GEOMETRY, ECONOMY and LIMITS. -/
def geometryBytes : List Byte := [11200, 5600, 2900, 1600, 3400, 900].flatMap put16
/-- ECONOMY. -/
def economyBytes : List Byte :=
  (builtinSteps.flatMap fun r => put16 r.rpm ++ put8 r.threshold ++ put8 r.weight) ++
    [5, 10, 8, 3, 5, 4, 10, 10, 8, 7, 10]
/-- LIMITS. -/
def limitsBytes : List Byte :=
  ([100, 300, 2000, 2400, 1500, 400, 40000, 1000, 250].flatMap put16) ++ putS16 (-2000) ++ [10] ++ put16 300
/-- INDEX (R170): version and stamp, then length and checksum of each section. -/
def indexBytes : List Byte :=
  List.replicate 6 0 ++ ([geometryBytes, [], [], economyBytes, [], limitsBytes].flatMap fun b =>
    put16 b.length ++ put16 (checksum b).toNat)

/-- The staging area with every section of the plan received. -/
def staged : Seven Region :=
  ⟨regionOf geometryBytes, regionOf [], regionOf [], regionOf economyBytes, regionOf [], regionOf limitsBytes,
   regionOf indexBytes⟩

theorem test_meets_CommitTests :
    outcome (judgeCommit staged) = (none, some builtinInForce) ∧
    outcome (judgeCommit { staged with limits := regionOf (limitsBytes.set 4 0) }) =
      (some (.limits, .checksum), none) ∧
    outcome (judgeCommit { staged with geometry := { regionOf geometryBytes with received := false } }) =
      (some (.geometry, .missing), none) := by decide +kernel

/-- RUN with the whole plan staged and its INDEX about to end. -/
def committing : State :=
  { run with plan := { run.plan with
      staging := { staged with index := { emptyRegion with bytes := indexBytes } }
      xfer := .receiving, receiving := .index, declared := 30, expected := 30, inactTimer := 20000 } }

theorem test_meets_CommitTakesPlan :
    Delivered committing .xferEnd (frameFrom .gateway []) .gateway ∧ committing.power ≠ .parking ∧
    committing.env.slots.length = 16 ∧ committing.plan.expected = committing.plan.declared ∧
    ({ committing.plan.staging with index :=
      { committing.plan.staging.index with received := true, length := 30, sum := checksum indexBytes } }) = staged ∧
    committing.ctrl.writing = none ∧ committing.cycle.state = .idle := by
  unfold Delivered Heard
  refine ⟨?_, ?_, ?_, ?_, ?_, ?_, ?_⟩ <;> decide +kernel

/-- The item carried over by R129 and R130: deferred past the new interval, overdue below it, lost, and new. -/
theorem test_meets_CommitTakesPlan_items :
    [itemAtCommit oil [(oilAt .due 100).defer 10] [], itemAtCommit oil [oilAt .overdue 95] [],
     itemAtCommit oil [] [{ number := 3, content := none }],
     itemAtCommit oil [] [{ number := 3, content := some (.fuelL, (oilAt .due 110).usage) }],
     itemAtCommit oil [] []].map (fun i => (i.usage.state, i.usage.used, i.usage.deferredUntil)) =
      [(.deferred, 100, some 110), (.dueSoon, 95, none), (.due, 100, none), (.due, 110, none), (.ok, 0, none)] := by
  decide

theorem test_meets_CommitTakesPlan_awake :
    let s := { committing with power := .serviceAwake, env := lined.env }
    Delivered s .xferEnd (frameFrom .gateway []) .gateway ∧ (slotAt s.env.slots 1).fence ≠ none ∧
    s.caps.rows.slots.length = 16 := by
  unfold Delivered Heard
  refine ⟨?_, ?_, ?_⟩ <;> decide

/-- A commit that drops an item places SERVICE_STATUS. -/
theorem test_commit_places_status :
    leaves (exec (.xferEnd (frameFrom .gateway [])) { committing with svc := dueRun.svc }) (fun t =>
      t.svc.items.isEmpty && t.ports.implement.list.any fun e => e.kind == .serviceStatus) = true := by
  decide +kernel

/-- NO_PLAN is in force before the commit, with no items. -/
theorem test_meets_CommitTakesPlan_inForce : PlanInForce committing :=
  ⟨⟨rfl, rfl⟩, .nil⟩

/-! Links, ports, reads -/

theorem test_meets_RefusalsAreRecorded :
    Heard run (frameFrom .cab []) .cab ∧ permits .wake .cab = false ∧ permits .guardSet .cab = true ∧
    RxKind.lengthOk .guardSet (frameFrom .cab []).data = false ∧
    Delivered run .faultClear (frameFrom .cab []) .cab ∧ Delivered parking .faultClear (frameFrom .cab []) .cab := by
  unfold Delivered Heard; decide

/-- RUN with a read in progress of 17 bytes, on a page. -/
def reading (page : Nat) : State :=
  { run with reads := { run.reads with
      gateway := some { selector := 6, index := 0, bytes := List.replicate 17 1, page := page } } }

/-- A record was read. -/
def isRecord : Snap → Bool
  | .record _ => true
  | _ => false

theorem test_meets_ReadsByPages :
    Delivered run .read (frameFrom .cab [6, 0]) .cab ∧
    isRecord (snapshot (heardState run .read .cab) 6 0) = true ∧
    snapshot (heardState run .read .cab) 255 0 = .unknown ∧ snapshot (heardState run .read .cab) 6 1 = .noItem ∧
    ((reading 1).reads.get .gateway).isSome = true ∧
    (∀ e ∈ ((reading 1).ports.get .powertrain).list, ¬(e.kind = .readData ∧ e.dest = Party.node .gateway)) := by
  unfold Delivered Heard
  refine ⟨?_, ?_, ?_, ?_, ?_, ?_⟩ <;> decide

/-- A state with CAP_SET at the head of the implement port's list. -/
def sendingCaps : State :=
  { run with ports := { coldPorts with implement := { coldPort with
      errors := 1, list := [{ kind := .capSet, dest := 0x31, data := List.replicate 8 250 }] } } }

theorem test_meets_TxSuccess :
    (sendingCaps.ports.get .implement).bus = .onBus ∧
    (sendingCaps.ports.get .implement).list =
      [{ kind := .capSet, dest := 0x31, data := List.replicate 8 250 }] ∧
    sendingCaps.caps.sending = true ∧ 8 * (1 + 1) < 17 ∧ 17 ≤ 8 * (2 + 1) := by decide

theorem test_meets_TxSuccess_invariants :
    CapsCurrent sendingCaps ∧ StepCurrent sendingCaps ∧ OfferCurrent sendingCaps ∧
    sendingCaps.reads.get .gateway = none := by
  unfold CapsCurrent StepCurrent OfferCurrent
  refine ⟨?_, ?_, ?_, rfl⟩ <;> decide +kernel

/-- The send recorded and its message gone. -/
theorem test_txSuccess :
    leaves (exec (.txSuccess .implement none) sendingCaps) (fun t =>
      t.ports.implement.list.all (fun e => e.kind != .capSet) && t.ports.implement.errors == 0 &&
        t.caps.lastSent == some (Eight.all 250) && t.caps.check == .agreed) = true := by decide +kernel

/-- A state with an implement port of these counts. -/
def onPort (b : BusState) (errors recovery : Nat) : State :=
  { run with ports := { coldPorts with
      implement := { coldPort with bus := b, errors := errors, recovery := recovery } } }

theorem test_meets_BusErrors :
    ((onPort .onBus 247 0).ports.get .implement).errors + 8 = 255 ∧
    255 < ((onPort .onBus 248 0).ports.get .implement).errors + 8 ∧
    ((onPort .busOff 0 126).ports.get .implement).recovery + 1 = 127 ∧
    ((onPort .busOff 0 127).ports.get .implement).recovery = 127 ∧
    ((onPort .busOff 0 128).ports.get .implement).bus = .busOff := by decide

/-- A port that goes off its bus raises PORT_BUS_OFF, and LINK_SILENT for its ONLINE link (R166, R167). -/
theorem test_busOff_alerts :
    let s := { onPort .onBus 248 0 with links := { coldLinks with valve := { coldLink with state := .online } } }
    raises (exec (.txError .implement) s) .portBusOff (.port .implement) 7 = true ∧
    raises (exec (.txError .implement) s) .linkSilent (.party .valve) 5 = true := by
  refine ⟨?_, ?_⟩ <;> decide +kernel

/-- A link ONLINE at its silent time, and a link SILENT at its offline time. -/
def quiet (st : LinkState) (t : Nat) : State :=
  { run with links := { coldLinks with valve := { coldLink with state := st, silence := t } } }

theorem test_meets_LinkRecords :
    notForPart 0x0FF (frameFrom .cab []) = true ∧ Heard run (frameFrom .cab []) .cab ∧
    ((quiet .online 100).links.get .valve).state = .online ∧
    Party.silentTime .valve ≤ ((quiet .online 100).links.get .valve).silence ∧
    ((quiet .silent 500).links.get .valve).state ≠ .online ∧
    Party.offlineTime .valve ≤ ((quiet .silent 500).links.get .valve).silence ∧
    ((quiet .silent 500).links.get .valve).offlineStands = false ∧ run.alerts.entries = [] := by
  unfold Heard; decide

/-- Frames that reach nothing (R162, R166, R167): on the other port, from no party, to a port off its bus, in
PARKED. -/
theorem test_meets_LinkRecords_unheard :
    let f := frameFrom .valve []
    ¬Heard run { f with port := .powertrain } .valve ∧ (∀ p : Party, ({ f with src := 0x99 }).src ≠ p.node) ∧
    ¬Heard (onPort .busOff 0 0) f .valve ∧ ¬Heard parked f .valve := by
  unfold Heard
  refine ⟨by decide, fun p => by cases p <;> decide, by decide, by decide⟩

/-- Frames that are heard and discarded (R162): to another node, a sample of another length or sender, a request
of the sensor hub. -/
theorem test_meets_LinkRecords_discarded :
    Heard run { frameFrom .cab [] with dest := 0x31 } .cab ∧ (0x31 : Byte) ≠ partNode ∧
    (0x31 : Byte) ≠ broadcastNode ∧ RxKind.lengthOk .jointSample (frameFrom .sensor []).data = false ∧
    RxKind.sender .jointSample ≠ some .cab ∧ Heard run (frameFrom .sensor []) .sensor ∧
    RxKind.isRequest .guardSet = true ∧ RxKind.isRequest .jointSample = false := by
  unfold Heard; decide

/-! Power and the store -/

theorem test_meets_KeyLine :
    parking.power = .parking ∧ parked.power = .parked ∧ awake.power = .serviceAwake ∧ run.power = .run ∧
    run.ctrl.writing = none ∧ run.ctrl.imageWrite = .none ∧ run.plan.xfer = .idle ∧
    ({ run with ctrl := parking.ctrl }).ctrl.writing ≠ none ∧ State.reset.power = .off ∧
    ItemsDistinct parked ∧ parked.plan.startPending = false ∧
    ({ parked with plan := { coldPlanStore with startPending := true } }).plan.startPending = true := by
  unfold ItemsDistinct; decide

/-- A key-on from PARKED with a start request pending: the request is made, and the Economy Unit's settings are
the wake's (R113, R151). -/
theorem test_keyOn_parked :
    leaves (exec .keyOn { parked with
      plan := { coldPlanStore with startPending := true }
      econ := { coldEcon 3 7 8 with mode := .manual, manualStep := 9 } })
      (fun t => t.plan.xfer == .requested && t.plan.requestTimer == 60000 &&
        t.econ == coldEcon builtinEcon.startStep 7 8) = true := by decide

/-- A chip with both slots valid at these sequences. -/
def chipAt (a b : Nat) : Chip :=
  { blankChip with
    slotA := writtenSlot a blankSlot.image, slotB := writtenSlot b blankSlot.image }

/-- A slot is valid by its checksum alone: not when its sequence or image is another than the one it was
written with, and not while it is marked (R172, R173). -/
theorem test_slot_checksum :
    (writtenSlot 7 blankSlot.image).valid = true ∧ { writtenSlot 7 blankSlot.image with seq := 8 }.valid = false ∧
    { writtenSlot 7 blankSlot.image with image := { blankSlot.image with nrev := 1 } }.valid = false ∧
    (writtenSlot 7 blankSlot.image).marked.valid = false := by decide +kernel

/-- The slot chosen: the higher sequence, 1 above 4294967295, A when equal (R172). -/
theorem test_meets_PowerLossAndColdStart :
    [(1, 4294967295), (4294967295, 1), (7, 7), (7, 8), (8, 7), (1, 2)].map
      (fun (p : Nat × Nat) => (chipAt p.1 p.2).choose.map fun k => k.seq) =
      [some 1, some 1, some 7, some 8, some 8, some 2] ∧
    blankChip.choose = none ∧ ({ State.reset with power := .starting }).power = .starting := by decide +kernel

/-- A cold start without a plan and without a valid slot holds the twenty-four usages as lost (R130), and one
with the items of a plan builds each from its entry of the image (R129, R132). -/
theorem test_meets_PowerLossAndColdStart_items :
    leaves (exec .startingReadComplete { State.reset with power := .starting }) (fun t =>
      t.svc.held.map (fun l => (l.length, l.all fun x => x.content.isNone)) == some (24, true) &&
        t.svc.items.isEmpty) = true ∧
    (restoreService (some { meters := zeroMeters, nrev := 40000, items :=
        [{ number := 3, content := some (.engineHours, (oilAt .due 110).usage) }] }) (some [oil])).items.map
      (fun i => (i.usage.used, i.usage.state)) = [(110, .due)] ∧
    (restoreService none (some [oil])).items.map (fun i => (i.usage.used, i.usage.state)) = [(100, .due)] := by
  refine ⟨?_, ?_, ?_⟩ <;> decide

theorem test_meets_WakeAndSleep :
    parked.power = .parked ∧ parked.ports.powertrain.bus = .onBus ∧
    Delivered awake .wake (frameFrom .gateway []) .gateway ∧ Delivered run .wake (frameFrom .gateway []) .gateway ∧
    Delivered run .sleep (frameFrom .gateway []) .gateway ∧
    Delivered awake .sleep (frameFrom .gateway []) .gateway ∧ awakeOver.ctrl.awakeTimer = 0 ∧
    parkingDone.ctrl.parkingCkpt = false ∧ parkingDone.plan.image ≠ .storing ∧ awake.caps.sending = false := by
  unfold Delivered Heard
  refine ⟨?_, ?_, ?_, ?_, ?_, ?_, ?_⟩ <;> decide

theorem test_meets_StorePort :
    parking.ctrl.writing.isSome = true ∧ parkingImage.ctrl.imageWrite = .onPort ∧
    parkingImage.ctrl.writing = none ∧ ({ coldCtrl with pendingCkpt := true }).pendingCkpt = true ∧
    ({ coldCtrl with pendingCkpt := true }).writing = none ∧
    ({ coldCtrl with imageWrite := .waiting }).writing = none := by decide

/-- PARKING as before, with another write due at the freed port. -/
def parkingNext (image : ImageWrite) (pending : Bool) : State :=
  { parking with ctrl := { parking.ctrl with imageWrite := image, pendingCkpt := pending } }

/-- A completed checkpoint makes its slot valid also where an image write waits; the pending checkpoint goes to
the other slot after a completed one, and to the same slot again after a failed one (R173, R174). -/
theorem test_meets_StorePort_freed :
    leaves (exec (.checkpointReport true) (parkingNext .waiting true)) (fun t =>
      t.chip.slotA.valid && t.ctrl.imageWrite == .onPort && t.ctrl.pendingCkpt) = true ∧
    leaves (exec (.checkpointReport true) (parkingNext .none true)) (fun t => t.chip.slotA.valid &&
      t.ctrl.writing.map (fun w => (w.slot, w.seq)) == some (.b, 2)) = true ∧
    leaves (exec (.checkpointReport false) (parkingNext .none true)) (fun t => !t.chip.slotA.valid &&
      t.ctrl.writing.map (fun w => (w.slot, w.seq)) == some (.a, 1)) = true := by
  refine ⟨?_, ?_, ?_⟩ <;> decide +kernel

end Sys2Proof.Tests
end

/-! PROOFS. The Measurement Unit: the vote of three USED channels (R3) and the index pass (R12, R14 to R16),
from what a list put in order is and from what a pass makes of its candidate. -/

namespace Sys2Proof.Machine

/-! ### Lists put in order -/

theorem perm_insertSorted {α : Type} (before : α → α → Bool) (x : α) (l : List α) :
    (insertSorted before x l).Perm (x :: l) := by
  induction l with
  | nil => exact .refl _
  | cons y ys ih =>
    simp only [insertSorted]
    split
    · exact .refl _
    · exact (ih.cons y).trans (.swap x y ys)

theorem perm_foldl_insertSorted {α : Type} (before : α → α → Bool) (l acc : List α) :
    (l.foldl (fun acc x => insertSorted before x acc) acc).Perm (l ++ acc) := by
  induction l generalizing acc with
  | nil => exact .refl _
  | cons x xs ih => exact (ih _).trans (((perm_insertSorted before x acc).append_left xs).trans List.perm_middle)

theorem perm_sortBy {α : Type} (before : α → α → Bool) (l : List α) : (sortBy before l).Perm l := by
  simpa [sortBy] using perm_foldl_insertSorted before l []

section LinearOrder

variable {α : Type} [LinearOrder α]

/-- Insertion by `<` puts an element behind its equals, and keeps an ascending list ascending. -/
theorem pairwise_le_insertSorted {x : α} {l : List α} (h : l.Pairwise (· ≤ ·)) :
    (insertSorted (fun a b => decide (a < b)) x l).Pairwise (· ≤ ·) := by
  induction l with
  | nil => simp [insertSorted]
  | cons y ys ih =>
    obtain ⟨hy, hys⟩ := List.pairwise_cons.mp h
    simp only [insertSorted, decide_eq_true_eq]
    split
    next hxy => exact List.pairwise_cons.mpr ⟨by simpa using ⟨hxy.le, fun a ha => hxy.le.trans (hy a ha)⟩, h⟩
    next hxy => exact List.pairwise_cons.mpr ⟨by simpa using ⟨not_lt.mp hxy, hy⟩, ih hys⟩

theorem pairwise_le_sortBy (l : List α) : (sortBy (fun a b => decide (a < b)) l).Pairwise (· ≤ ·) :=
  List.foldlRecOn l _ .nil fun _ h _ _ => pairwise_le_insertSorted h

/-- An ascending list is what each of its permutations is put in order to. -/
theorem sortBy_eq_of_perm {l m : List α} (hp : l.Perm m) (hm : m.Pairwise (· ≤ ·)) :
    sortBy (fun a b => decide (a < b)) l = m :=
  ((perm_sortBy _ l).trans hp).eq_of_pairwise' (pairwise_le_sortBy l) hm

end LinearOrder

/-! ### The vote of three USED channels (R3) -/

theorem usedReadings_of_used {l : List Channel} (h : ∀ c ∈ l, c.use = .used) :
    usedReadings l = l.map fun c => c.reading := by
  unfold usedReadings
  rw [← List.filterMap_eq_map]
  exact List.filterMap_congr fun c hc => if_pos (h c hc)

/-- USED channels vote by their readings in ascending order, whatever order they report in. -/
theorem vote_of_used {l : List Channel} {m : List Int} (used : ∀ c ∈ l, c.use = .used)
    (hp : (l.map fun c => c.reading).Perm m) (hm : m.Pairwise (· ≤ ·)) : vote l = voteSorted m := by
  rw [vote, usedReadings_of_used used, sortBy_eq_of_perm hp hm]

/-- Settles O19: the readings are sorted to a, b, c, where the model's chain of tests is that of R3, its
division by 2 the floor. -/
theorem voteOfThree : Obligations.VoteOfThree := by
  intro a b c c1 c2 c3 hab hbc h1 h2 h3 hp
  have used : ∀ x ∈ [c1, c2, c3], x.use = .used := by simp [h1, h2, h3]
  have ascending : [a, b, c].Pairwise (· ≤ ·) := by simp [hab, hbc, hab.trans hbc]
  have floor (x : Int) : Int.fdiv x 2 = x / 2 := Int.fdiv_eq_ediv_of_nonneg x (by decide)
  rw [vote_of_used used hp ascending, floor, floor]
  rfl

/-! ### The candidate of a pass (R14) -/

theorem cast_modNat (a : Int) {n : Nat} (h : n ≠ 0) : (modNat a n : Int) = a % n :=
  Int.toNat_of_nonneg (Int.emod_nonneg a (Int.natCast_ne_zero.mpr h))

theorem candidate_left (first latched : Nat) :
    (candidate .left first latched : Int) = ((latched : Int) - first) % 65536 :=
  cast_modNat _ (by decide)

theorem candidate_right (first latched : Nat) :
    (candidate .right first latched : Int) = ((first : Int) - latched) % 65536 :=
  cast_modNat _ (by decide)

theorem passCandidate_of_first {r : SlewRec} {t : Turn} {c : Nat} (latched : Nat) (hm : r.lastMoving.turn = some t)
    (hf : r.firstPass = some (c, t)) : passCandidate r latched = some (candidate t c latched) := by
  simp [passCandidate, hm, hf]

/-- Without a first pass in the last moving direction a pass forms no candidate. -/
theorem passCandidate_eq_none {r : SlewRec} (latched : Nat)
    (h : ∀ t, r.lastMoving.turn = some t → ∀ c, r.firstPass ≠ some (c, t)) : passCandidate r latched = none := by
  unfold passCandidate
  split
  next t c t' hm hf => exact if_neg fun ht : t = t' => h t hm c (ht ▸ hf)
  next => rfl

/-! ### The pass (R12, R15, R16) -/

/-- The record a pass leaves before its candidate is judged (R12). -/
def SlewRec.passedMark (r : SlewRec) (latched : Nat) : SlewRec :=
  { r with
    index := latched, firstPass := r.lastMoving.turn.map fun t => (latched, t)
    state := if r.state = .unindexed then (if r.measured then .calibrated else .indexed) else r.state }

section Pass

variable {r : SlewRec} {latched nominal n : Nat} {near : Bool}

theorem SlewRec.indexPass_of_no_candidate (h : passCandidate r latched = none) :
    r.indexPass latched nominal near = (r.passedMark latched, false) := by
  unfold SlewRec.indexPass; rw [h]; rfl

theorem SlewRec.indexPass_of_near : r.indexPass latched nominal true = (r.passedMark latched, false) := by
  cases h : passCandidate r latched with
  | none => exact indexPass_of_no_candidate h
  | some n => unfold SlewRec.indexPass; rw [h]; rfl

theorem SlewRec.indexPass_of_candidate (h : passCandidate r latched = some n) :
    r.indexPass latched nominal false =
      if withinTolerance nominal n then
        ({ r.passedMark latched with nrev := n, measured := true, state := .calibrated }, false)
      else (r.passedMark latched, true) := by
  unfold SlewRec.indexPass; rw [h]; rfl

theorem SlewRec.indexPass_of_accepted (h : passCandidate r latched = some n)
    (within : ((n : Int) - nominal).natAbs ≤ nominal / 50) : r.indexPass latched nominal false =
      ({ r.passedMark latched with nrev := n, measured := true, state := .calibrated }, false) := by
  rw [indexPass_of_candidate h]; exact if_pos (decide_eq_true within)

theorem SlewRec.indexPass_of_rejected (h : passCandidate r latched = some n)
    (beyond : nominal / 50 < ((n : Int) - nominal).natAbs) :
    r.indexPass latched nominal false = (r.passedMark latched, true) := by
  rw [indexPass_of_candidate h]; exact if_neg (by simpa [withinTolerance] using beyond)

/-- A pass leaves the record of the mark, but for what an accepted candidate sets. -/
theorem SlewRec.indexPass_frame (r : SlewRec) (latched nominal : Nat) (near : Bool) :
    ∃ nrev measured state, (r.indexPass latched nominal near).1 =
      { r.passedMark latched with nrev := nrev, measured := measured, state := state } := by
  cases near with
  | true => exact ⟨_, _, _, congrArg Prod.fst indexPass_of_near⟩
  | false =>
    cases h : passCandidate r latched with
    | none => exact ⟨_, _, _, congrArg Prod.fst (indexPass_of_no_candidate h)⟩
    | some n =>
      rcases le_or_gt ((n : Int) - nominal).natAbs (nominal / 50) with within | beyond
      · exact ⟨_, _, _, congrArg Prod.fst (indexPass_of_accepted h within)⟩
      · exact ⟨_, _, _, congrArg Prod.fst (indexPass_of_rejected h beyond)⟩

end Pass

/-- Settles O22, from the pass without a judged candidate and the one whose candidate is judged against the
nominal. -/
theorem indexPass : Obligations.IndexPass := by
  rintro r latched nominal near _ rfl
  obtain ⟨nrev, measured, state, frame⟩ := r.indexPass_frame latched nominal near
  rw [frame]
  refine ⟨rfl, ?_, rfl, rfl, rfl, rfl, rfl, rfl, rfl, rfl, ?_⟩
  · cases hm : r.lastMoving <;> simp [SlewRec.passedMark, hm, Moving.turn]
  rw [← frame]
  rintro _ rfl
  constructor
  · intro unjudged
    have pass : r.indexPass latched nominal near = (r.passedMark latched, false) := by
      rcases unjudged with hm | hf | ⟨c, hf, hm⟩ | ⟨c, hf, hm⟩ | rfl
      · exact SlewRec.indexPass_of_no_candidate (passCandidate_eq_none _ (by simp [hm, Moving.turn]))
      · exact SlewRec.indexPass_of_no_candidate (passCandidate_eq_none _ (by simp [hf]))
      · exact SlewRec.indexPass_of_no_candidate (passCandidate_eq_none _ (by simp [hf, hm, Moving.turn]))
      · exact SlewRec.indexPass_of_no_candidate (passCandidate_eq_none _ (by simp [hf, hm, Moving.turn]))
      · exact SlewRec.indexPass_of_near
    rw [pass]
    exact ⟨rfl, rfl, rfl, rfl⟩
  · rintro c n rfl second
    obtain ⟨k, hk, rfl⟩ : ∃ k : Nat, passCandidate r latched = some k ∧ n = k := by
      rcases second with ⟨hf, hm, rfl⟩ | ⟨hf, hm, rfl⟩
      · exact ⟨_, passCandidate_of_first latched (by rw [hm]; rfl) hf, (candidate_left c latched).symm⟩
      · exact ⟨_, passCandidate_of_first latched (by rw [hm]; rfl) hf, (candidate_right c latched).symm⟩
    constructor
    · intro within
      rw [SlewRec.indexPass_of_accepted hk within]
      exact ⟨rfl, rfl, rfl, rfl⟩
    · intro beyond
      rw [SlewRec.indexPass_of_rejected hk beyond]
      exact ⟨rfl, rfl, rfl, rfl⟩

end Sys2Proof.Machine

/-! PROOFS. Sine and cosine (R22, R23): the first-quadrant sine rises with its angle, because the table does and
rounding keeps order; its two ends then bound the sine of every quadrant. -/

namespace Sys2Proof.Machine

/-! ### Rounded quotients -/

section Rounding

variable {a b : Int} {n : Nat}

@[simp] theorem roundDiv_zero (hn : 0 < n) : roundDiv 0 n = 0 := by
  rw [roundDiv, if_pos le_rfl]
  exact Int.ediv_eq_zero_of_lt (by omega) (by omega)

theorem roundDiv_mul_self (ha : 0 ≤ a) (hn : 0 < n) : roundDiv (a * n) n = a := by
  have whole : 2 * (a * n) + n = n + a * (2 * n) := by ring
  rw [roundDiv, if_pos (by positivity), whole, Int.add_mul_ediv_right _ _ (by omega),
    Int.ediv_eq_zero_of_lt (by omega) (by omega), zero_add]

theorem roundDiv_le_roundDiv (ha : 0 ≤ a) (hab : a ≤ b) (hn : 0 < n) : roundDiv a n ≤ roundDiv b n := by
  rw [roundDiv, roundDiv, if_pos ha, if_pos (ha.trans hab)]
  exact Int.ediv_le_ediv (by omega) (by omega)

end Rounding

/-! ### The first quadrant (R22) -/

theorem sineEntry_lt_succ : ∀ d < 90, sineEntry d < sineEntry (d + 1) := by decide

@[simp] theorem quadrantSine_degree (d : Nat) : quadrantSine (100 * d) = sineEntry d := by
  simp [quadrantSine]

/-- R22's interpolation, which at either end of its degree gives the table's entry: f = 100 is the next degree. -/
theorem quadrantSine_interpolates {d f : Nat} (hd : d < 90) (hf : f ≤ 100) :
    quadrantSine (100 * d + f) =
      sineEntry d + roundDiv (((sineEntry (d + 1) : Int) - sineEntry d) * f) 100 := by
  rcases Nat.eq_zero_or_pos f with rfl | pos
  · simp
  rcases hf.eq_or_lt with rfl | hf
  · have rises := sineEntry_lt_succ d hd
    rw [roundDiv_mul_self (by omega) (by omega), ← Nat.mul_add_one, quadrantSine_degree]
    omega
  · have degree : (100 * d + f) / 100 = d := by omega
    have rest : (100 * d + f) % 100 = f := by omega
    rw [quadrantSine, degree, rest, if_neg pos.ne']

theorem quadrantSine_le_succ {a : Nat} (ha : a < 9000) : quadrantSine a ≤ quadrantSine (a + 1) := by
  obtain ⟨d, f, hd, hf, rfl⟩ : ∃ d f, d < 90 ∧ f < 100 ∧ a = 100 * d + f :=
    ⟨a / 100, a % 100, by omega, by omega, by omega⟩
  have rises := sineEntry_lt_succ d hd
  rw [add_assoc, quadrantSine_interpolates hd hf.le, quadrantSine_interpolates hd hf]
  have further : ((sineEntry (d + 1) : Int) - sineEntry d) * f ≤
      ((sineEntry (d + 1) : Int) - sineEntry d) * (f + 1 : Nat) :=
    mul_le_mul_of_nonneg_left (by omega) (by omega)
  exact add_le_add_right (roundDiv_le_roundDiv (mul_nonneg (by omega) (by omega)) further (by omega)) _

theorem quadrantSine_le_quadrantSine {a b : Nat} (hab : a ≤ b) (hb : b ≤ 9000) :
    quadrantSine a ≤ quadrantSine b := by
  induction b, hab using Nat.le_induction with
  | base => exact le_rfl
  | succ b _ ih => exact (ih (by omega)).trans (quadrantSine_le_succ hb)

@[simp] theorem quadrantSine_zero : quadrantSine 0 = 0 := quadrantSine_degree 0

@[simp] theorem quadrantSine_right_angle : quadrantSine 9000 = 16384 := quadrantSine_degree 90

theorem quadrantSine_bounds {a : Nat} (ha : a ≤ 9000) : 0 ≤ quadrantSine a ∧ quadrantSine a ≤ 16384 :=
  ⟨quadrantSine_zero ▸ quadrantSine_le_quadrantSine a.zero_le ha,
    quadrantSine_right_angle ▸ quadrantSine_le_quadrantSine ha le_rfl⟩

/-! ### Every quadrant (R23) -/

section Quadrants

variable {a : Int}

/-- R23's rows over the residue itself, a whole number that the model holds as a natural one. -/
theorem sine_eq (a : Int) : sine a =
    if a % 36000 ≤ 9000 then quadrantSine (a % 36000).toNat
    else if a % 36000 ≤ 18000 then quadrantSine (18000 - a % 36000).toNat
    else if a % 36000 ≤ 27000 then -quadrantSine (a % 36000 - 18000).toNat
    else -quadrantSine (36000 - a % 36000).toNat := by
  obtain ⟨r, hr⟩ : ∃ r : Nat, a % 36000 = r := Int.eq_ofNat_of_zero_le (by omega)
  have reduced : modNat a fullCircle = r := Int.ofNat.inj ((cast_modNat a (by decide)).trans hr)
  have second : (18000 - (r : Int)).toNat = 18000 - r := by omega
  have third : ((r : Int) - 18000).toNat = r - 18000 := by omega
  have fourth : (36000 - (r : Int)).toNat = 36000 - r := by omega
  rw [sine, reduced, hr, second, third, fourth]
  norm_cast

theorem sine_of_first_quadrant (h : a % 36000 ≤ 9000) : sine a = quadrantSine (a % 36000).toNat := by
  rw [sine_eq, if_pos h]

theorem sine_of_second_quadrant (low : 9001 ≤ a % 36000) (high : a % 36000 ≤ 18000) :
    sine a = quadrantSine (18000 - a % 36000).toNat := by
  rw [sine_eq, if_neg (by omega), if_pos high]

theorem sine_of_third_quadrant (low : 18001 ≤ a % 36000) (high : a % 36000 ≤ 27000) :
    sine a = -quadrantSine (a % 36000 - 18000).toNat := by
  rw [sine_eq, if_neg (by omega), if_neg (by omega), if_pos high]

theorem sine_of_fourth_quadrant (low : 27001 ≤ a % 36000) :
    sine a = -quadrantSine (36000 - a % 36000).toNat := by
  rw [sine_eq, if_neg (by omega), if_neg (by omega), if_neg (by omega)]

/-- Every sine is, up to its sign, a first-quadrant one. -/
theorem sine_eq_quadrantSine_or_neg (a : Int) :
    ∃ r ≤ 9000, sine a = quadrantSine r ∨ sine a = -quadrantSine r := by
  rcases le_or_gt (a % 36000) 9000 with first | past
  · exact ⟨_, by omega, .inl (sine_of_first_quadrant first)⟩
  rcases le_or_gt (a % 36000) 18000 with second | past'
  · exact ⟨_, by omega, .inl (sine_of_second_quadrant past second)⟩
  rcases le_or_gt (a % 36000) 27000 with third | fourth
  · exact ⟨_, by omega, .inr (sine_of_third_quadrant past' third)⟩
  · exact ⟨_, by omega, .inr (sine_of_fourth_quadrant fourth)⟩

theorem sine_bounds (a : Int) : -16384 ≤ sine a ∧ sine a ≤ 16384 := by
  obtain ⟨r, hr, h⟩ := sine_eq_quadrantSine_or_neg a
  obtain ⟨low, high⟩ := quadrantSine_bounds hr
  omega

theorem cosine_bounds (a : Int) : -16384 ≤ cosine a ∧ cosine a ≤ 16384 := sine_bounds (9000 - a)

theorem sine_of_half_turn (h : a % 36000 = 18000) : sine a = 0 := by
  rw [sine_of_second_quadrant (by omega) (by omega), h]
  exact quadrantSine_zero

theorem sine_of_three_quarter_turn (h : a % 36000 = 27000) : sine a = -16384 := by
  rw [sine_of_third_quadrant (by omega) (by omega), h]
  exact congrArg Neg.neg quadrantSine_right_angle

end Quadrants

/-- Settles O18: a step of one centidegree never lowers the first-quadrant sine, which bounds it, and with it
the sine of every quadrant. -/
theorem sineQuadrants : Obligations.SineQuadrants := by
  refine ⟨by decide, fun d hd => ⟨?_, fun f hf => ?_⟩, fun a b => quadrantSine_le_quadrantSine, fun a => ?_⟩
  · simpa using sineEntry_lt_succ d hd
  · simpa using quadrantSine_interpolates hd hf.le
  · obtain ⟨sineLow, sineHigh⟩ := sine_bounds a
    obtain ⟨cosineLow, cosineHigh⟩ := cosine_bounds a
    exact ⟨sine_of_first_quadrant, fun ⟨low, high⟩ => sine_of_second_quadrant low high,
      fun ⟨low, high⟩ => sine_of_third_quadrant low high, sine_of_fourth_quadrant, rfl,
      sineLow, sineHigh, cosineLow, cosineHigh, sine_of_half_turn, sine_of_three_quarter_turn⟩

end Sys2Proof.Machine


/-! PROOFS. The Grade Guide (R46 to R48): what covers the tip, which panel is selected, and the guidance record
at each outcome of its tests. -/

namespace Sys2Proof.Machine

/-! ### Sectors (spec/00, Slew sectors) -/

theorem cast_sectorWidth (start stop : Nat) : (sectorWidth start stop : Int) = turn start stop :=
  cast_modNat _ (by decide)

theorem cast_angleTo (a b : Nat) : (angleTo a b : Int) = turn a b := cast_sectorWidth a b

theorem inSector_iff {start stop angle : Nat} :
    inSector start stop angle = true ↔ turn start angle ≤ turn start stop := by
  rw [inSector, decide_eq_true_eq, ← cast_angleTo, ← cast_sectorWidth, Int.ofNat_le]

theorem inSectorOrAround_iff {start stop angle : Nat} :
    inSectorOrAround start stop angle = true ↔ turn start stop = 0 ∨ turn start angle ≤ turn start stop := by
  rw [inSectorOrAround, Bool.or_eq_true, beq_iff_eq, inSector_iff, ← cast_sectorWidth start stop,
    Int.natCast_eq_zero]

/-! ### The selected panel (R46) -/

section Selection

variable {panels : List Panel} {pose : PoseRec} {p : Panel}

/-- The pose has a slew angle at which the panel covers its tip. -/
def Panel.UnderTip (p : Panel) (pose : PoseRec) : Prop :=
  ∃ a, pose.slew = some a ∧ p.covers a pose.rt = true

theorem Panel.underTip_iff : p.UnderTip pose ↔ ∃ a, pose.slew = some a ∧
    (turn p.start p.stop = 0 ∨ turn p.start a ≤ turn p.start p.stop) ∧ p.low ≤ pose.rt ∧ pose.rt ≤ p.high := by
  simp only [Panel.UnderTip, Panel.covers, Bool.and_eq_true, inSectorOrAround_iff, decide_eq_true_eq, and_assoc]

theorem selectPanel_of_slew {a : Nat} (h : pose.slew = some a) :
    selectPanel panels pose = panels.find? fun p => p.covers a pose.rt := by
  simp [selectPanel, h]

theorem Panel.underTip_of_slew {a : Nat} (h : pose.slew = some a) :
    p.UnderTip pose ↔ p.covers a pose.rt = true := by
  simp [Panel.UnderTip, h]

theorem selectPanel_eq_none_iff : selectPanel panels pose = none ↔ ∀ p ∈ panels, ¬p.UnderTip pose := by
  cases h : pose.slew with
  | none => simp [selectPanel, Panel.UnderTip, h]
  | some a => simp [selectPanel_of_slew h, Panel.underTip_of_slew h]

/-- The first covering panel of an ascending table is the covering panel with the lowest number. -/
theorem selectPanel_lowest (ascending : panels.Pairwise fun p q => p.number < q.number)
    (h : selectPanel panels pose = some p) :
    p ∈ panels ∧ p.UnderTip pose ∧ ∀ q ∈ panels, q.UnderTip pose → p.number ≤ q.number := by
  cases hs : pose.slew with
  | none => simp [selectPanel, hs] at h
  | some a =>
    rw [selectPanel_of_slew hs] at h
    obtain ⟨covers, before, after, rfl, uncovered⟩ := List.find?_eq_some_iff_append.mp h
    refine ⟨by simp, (Panel.underTip_of_slew hs).mpr covers, fun q hq under => ?_⟩
    have covered := (Panel.underTip_of_slew hs).mp under
    obtain ⟨-, behind, -⟩ := List.pairwise_append.mp ascending
    rcases List.mem_append.mp hq with early | late
    · exact absurd covered (by simpa using uncovered q early)
    rcases List.mem_cons.mp late with rfl | later
    · exact le_rfl
    · exact ((List.pairwise_cons.mp behind).1 q later).le

end Selection

/-! ### The record at each outcome of the tests (R47, R48) -/

section Record

variable {panels : List Panel} {pose : PoseRec} {b : Benchmark}

theorem guidance_of_no_plan : guidance false panels pose b = .absent .noPlan := rfl

theorem guidance_of_invalid (hq : pose.quality = .invalid) :
    guidance true panels pose b = .absent .poseInvalid := by
  simp [guidance, hq]

theorem guidance_of_no_benchmark (hq : pose.quality ≠ .invalid) (hb : b.state = .none) :
    guidance true panels pose b = .absent .noBenchmark := by
  simp [guidance, hq, hb]

theorem guidance_of_stale_benchmark (hq : pose.quality ≠ .invalid) (hb : b.state = .stale) :
    guidance true panels pose b = .absent .staleBenchmark := by
  simp [guidance, hq, hb]

theorem guidance_of_no_panel (hq : pose.quality ≠ .invalid) (hb : b.state = .current)
    (hs : selectPanel panels pose = none) :
    guidance true panels pose b =
      { Guidance.absent .noPanel with tip := some (sat16 (tipElevation pose b)) } := by
  simp [guidance, Guidance.absent, hq, hb, hs]

theorem guidance_of_panel {p : Panel} {x y : Int} (hq : pose.quality ≠ .invalid) (hb : b.state = .current)
    (hs : selectPanel panels pose = some p) (hp : pose.plan = some (x, y)) :
    guidance true panels pose b =
      { status := if pose.quality = .degraded then .lowConfidence else .valid
        tip := some (sat16 (tipElevation pose b))
        design := some (sat16 (designElevation p b x y))
        cutFill := some (cutFill (tipElevation pose b) (designElevation p b x y))
        panel := some p.number } := by
  simp [guidance, hq, hb, hs, hp]

theorem good_iff_ne_degraded {q : PoseQuality} (h : q ≠ .invalid) : q = .good ↔ q ≠ .degraded := by
  cases q <;> simp_all

end Record

/-- Settles O29, by the outcome of each test of R48 in its order; a selected panel needs a slew angle, so the
pose has the plan coordinates that its elevations read. -/
theorem guidanceRecord : Obligations.GuidanceRecord := by
  rintro active panels pose b g ascending coordinates rfl
  cases active with
  | false => simp [guidance_of_no_plan, Guidance.absent]
  | true =>
    by_cases hq : pose.quality = .invalid
    · simp [guidance_of_invalid hq, Guidance.absent, hq]
    cases hb : b.state with
    | none => simp [guidance_of_no_benchmark hq hb, Guidance.absent, hq]
    | stale => simp [guidance_of_stale_benchmark hq hb, Guidance.absent, hq]
    | current =>
      cases hs : selectPanel panels pose with
      | none =>
        have uncovered := selectPanel_eq_none_iff.mp hs
        rw [guidance_of_no_panel hq hb hs]
        refine ⟨by simp [Guidance.absent], by simp [Guidance.absent, hq], by simp [Guidance.absent],
          by simp [Guidance.absent], by simp [Guidance.absent], fun _ _ _ => ⟨rfl, fun covers hc => ?_⟩⟩
        obtain rfl : covers = (·.UnderTip pose) :=
          funext fun p => propext ((hc p).trans Panel.underTip_iff.symm)
        simpa [Guidance.absent] using ⟨uncovered, fun _ => uncovered, fun _ => uncovered, uncovered⟩
      | some p =>
        obtain ⟨mem, under, lowest⟩ := selectPanel_lowest ascending hs
        have ⟨a, slew, _⟩ := under
        obtain ⟨⟨x, y⟩, plan⟩ := Option.isSome_iff_exists.mp ((coordinates hq).mp (by simp [slew]))
        have good := good_iff_ne_degraded hq
        rw [guidance_of_panel hq hb hs plan]
        refine ⟨by simp [ite_eq_iff], by simp [ite_eq_iff, hq], by simp [ite_eq_iff], by simp [ite_eq_iff],
          by simp [ite_eq_iff], fun _ _ _ => ⟨rfl, fun covers hc => ?_⟩⟩
        obtain rfl : covers = (·.UnderTip pose) :=
          funext fun p => propext ((hc p).trans Panel.underTip_iff.symm)
        have covered : ∃ p ∈ panels, p.UnderTip pose := ⟨p, mem, under⟩
        refine ⟨by simpa [ite_eq_iff] using covered, by simp [covered], by simp [covered, good],
          fun uncovered => absurd under (uncovered p mem),
          fun _ => ⟨p, mem, under, lowest, rfl, x, y, plan, ?_⟩⟩
        rintro e rfl
        exact ⟨rfl, rfl⟩

end Sys2Proof.Machine

/-! PROOFS. The Envelope Unit (R60 to R68): the rows a fence demands, the judgement outside a sector, and the
outcome of each case of the judgement, for a SECTOR fence and for a fence in height. -/

namespace Sys2Proof.Machine

/-! ### Rows that demand on the slew alone -/

@[simp] theorem Row.get_free (f : Func) : Row.free.get f = 1000 := Eight.get_all 1000 f

@[simp] theorem Row.slewLeft_free : Row.free.slewLeft = 1000 := rfl
@[simp] theorem Row.slewRight_free : Row.free.slewRight = 1000 := rfl
@[simp] theorem slewRow_slewLeft (left right : Nat) : (slewRow left right).slewLeft = left := rfl
@[simp] theorem slewRow_slewRight (left right : Nat) : (slewRow left right).slewRight = right := rfl

/-- A row that leaves the six other functions free. -/
def Row.SlewOnly (row : Row) : Prop := ∀ f, f ≠ .slewLeft → f ≠ .slewRight → row.get f = 1000

theorem Row.slewOnly_free : Row.free.SlewOnly := fun f _ _ => Row.get_free f

theorem slewOnly_slewRow (left right : Nat) : (slewRow left right).SlewOnly := fun f notLeft notRight => by
  cases f with
  | slewLeft => exact absurd rfl notLeft
  | slewRight => exact absurd rfl notRight
  | _ => rfl

/-! ### A function in height capped beside them -/

section HeightFunction

variable {k : FenceKind} (hk : k ≠ .sector) (row : Row) (n : Nat)
include hk

theorem Row.slewLeft_setFunc_height : (row.setFunc k.func n).slewLeft = row.slewLeft := by
  cases k with
  | sector => exact absurd rfl hk
  | _ => rfl

theorem Row.slewRight_setFunc_height : (row.setFunc k.func n).slewRight = row.slewRight := by
  cases k with
  | sector => exact absurd rfl hk
  | _ => rfl

end HeightFunction

/-! ### Toward the nearer exit (R61, R64) -/

/-- A distance that the manual writes as a residue is the model's angle. -/
theorem eq_angleTo {n a b : Nat} (h : (n : Int) = turn a b) : n = angleTo a b :=
  Int.ofNat.inj (h.trans (cast_angleTo a b).symm)

section Exits

variable {c : Limits} {g : FenceGeom} {a : Nat}

theorem exitRow_of_left_nearer (h : turn a g.stop < turn g.start a) : exitRow c g a = slewRow c.crawl 0 := by
  rw [← cast_angleTo, ← cast_angleTo, Int.ofNat_lt] at h
  simp [exitRow, h, h.ne]

theorem exitRow_of_right_nearer (h : turn g.start a < turn a g.stop) : exitRow c g a = slewRow 0 c.crawl := by
  rw [← cast_angleTo, ← cast_angleTo, Int.ofNat_lt] at h
  simp [exitRow, h.ne', h.le]

theorem exitRow_of_equal (h : turn g.start a = turn a g.stop) : exitRow c g a = slewRow c.crawl c.crawl := by
  rw [← cast_angleTo, ← cast_angleTo, Int.ofNat_inj] at h
  simp [exitRow, h]

theorem exitRow_slews (c : Limits) (g : FenceGeom) (a : Nat) :
    (turn a g.stop < turn g.start a → (exitRow c g a).slewLeft = c.crawl ∧ (exitRow c g a).slewRight = 0) ∧
    (turn g.start a < turn a g.stop → (exitRow c g a).slewLeft = 0 ∧ (exitRow c g a).slewRight = c.crawl) ∧
    (turn g.start a = turn a g.stop →
      (exitRow c g a).slewLeft = c.crawl ∧ (exitRow c g a).slewRight = c.crawl) :=
  ⟨fun h => by simp [exitRow_of_left_nearer h], fun h => by simp [exitRow_of_right_nearer h],
    fun h => by simp [exitRow_of_equal h]⟩

theorem slewOnly_exitRow : (exitRow c g a).SlewOnly := by
  rcases lt_trichotomy (turn g.start a) (turn a g.stop) with right | equal | left
  · rw [exitRow_of_right_nearer right]; exact slewOnly_slewRow _ _
  · rw [exitRow_of_equal equal]; exact slewOnly_slewRow _ _
  · rw [exitRow_of_left_nearer left]; exact slewOnly_slewRow _ _

end Exits

/-! ### Outside a sector (R60, R63) -/

section Outside

variable (c : Limits) (g : FenceGeom) (a : Nat) (band : Option Nat)

theorem stopCap_le (d : Nat) : stopCap c d ≤ 1000 := by
  unfold stopCap
  split
  · exact Nat.zero_le _
  · exact min_le_left _ _

theorem angleDistance_eq : angleDistance g a =
    { amount := (min (angleTo a g.start) (angleTo g.stop a) : Nat), unit := .cd } := by
  rw [Nat.cast_min]; rfl

theorem outsideJudgement_state : (outsideJudgement c g a band).1 =
    if angleTo a g.start ≤ c.margin ∨ angleTo g.stop a ≤ c.margin then .held
    else if stopCap c (angleTo a g.start) < 1000 ∨ stopCap c (angleTo g.stop a) < 1000 ∨
      ∃ b ∈ band, angleTo a g.start < c.margin + b ∨ angleTo g.stop a < c.margin + b then .approach
    else .clear := by
  cases band <;> simp [outsideJudgement] <;> rfl

theorem outsideJudgement_held_iff : (outsideJudgement c g a band).1 = .held ↔
    angleTo a g.start ≤ c.margin ∨ angleTo g.stop a ≤ c.margin := by
  simp [outsideJudgement_state, ite_eq_iff, or_iff_not_imp_left]

theorem outsideJudgement_clear_iff : (outsideJudgement c g a band).1 = .clear ↔
    c.margin < angleTo a g.start ∧ c.margin < angleTo g.stop a ∧
    stopCap c (angleTo a g.start) = 1000 ∧ stopCap c (angleTo g.stop a) = 1000 ∧
    ∀ b ∈ band, c.margin + b ≤ angleTo a g.start ∧ c.margin + b ≤ angleTo g.stop a := by
  have left := (stopCap_le c (angleTo a g.start)).ge_iff_eq
  have right := (stopCap_le c (angleTo g.stop a)).ge_iff_eq
  simp [outsideJudgement_state, ite_eq_iff, left, right, and_assoc]

theorem outsideJudgement_held_or_approach_or_clear :
    (outsideJudgement c g a band).1 = .held ∨ (outsideJudgement c g a band).1 = .approach ∨
      (outsideJudgement c g a band).1 = .clear := by
  rw [outsideJudgement_state]
  split
  · exact .inl rfl
  · split
    · exact .inr (.inl rfl)
    · exact .inr (.inr rfl)

end Outside

/-! ### A SECTOR fence (R60, R61, R67) -/

section Sector

variable {c : Limits} {g : FenceGeom} {pose : PoseRec} {a : Nat}

theorem judgeFence_sector_without_angle (hk : g.kind = .sector) : judgeFence c g pose none =
    { state := .indeterminate, remaining := none, demands := slewRow c.crawl c.crawl } := by
  simp [judgeFence, indeterminate, FenceGeom.sectorActing, hk]

theorem judgeFence_sector_inside (hk : g.kind = .sector) (ha : turn g.start a ≤ turn g.start g.stop) :
    judgeFence c g pose (some a) =
      { state := .breached
        remaining := some { amount := -(min (angleTo g.start a) (angleTo a g.stop) : Nat), unit := .cd }
        demands := exitRow c g a } := by
  simp [judgeFence, judgeSector, hk, inSector_iff.mpr ha]

theorem judgeFence_sector_outside (hk : g.kind = .sector) (ha : turn g.start g.stop < turn g.start a) :
    judgeFence c g pose (some a) =
      { state := (outsideJudgement c g a (some g.band)).1
        remaining := some (angleDistance g a)
        demands := (outsideJudgement c g a (some g.band)).2 } := by
  simp [judgeFence, judgeSector, hk, inSector_iff, ha]

theorem slewOnly_judgeFence_sector (hk : g.kind = .sector) (angle : Option Nat) :
    (judgeFence c g pose angle).demands.SlewOnly := by
  cases angle with
  | none => rw [judgeFence_sector_without_angle hk]; exact slewOnly_slewRow _ _
  | some a =>
    rcases le_or_gt (turn g.start a) (turn g.start g.stop) with inside | outside
    · rw [judgeFence_sector_inside hk inside]; exact slewOnly_exitRow
    · rw [judgeFence_sector_outside hk outside]; exact slewOnly_slewRow _ _

end Sector

/-- Settles O31, by the slew angle: absent, outside the sector, or inside it with its exits. -/
theorem sectorFence : Obligations.SectorFence := by
  refine ⟨fun c g pose hk => ⟨fun angle => slewOnly_judgeFence_sector hk angle, ?_, ?_⟩, ?_⟩
  · rintro _ rfl
    rw [judgeFence_sector_without_angle hk]
    exact ⟨rfl, rfl, rfl, rfl⟩
  · rintro a _ rfl
    refine ⟨fun left right hl hr outside => ?_, fun left right hl hr inside => ?_⟩
    · obtain rfl := eq_angleTo hl
      obtain rfl := eq_angleTo hr
      rw [judgeFence_sector_outside hk outside, angleDistance_eq]
      exact ⟨rfl, rfl, rfl, outsideJudgement_held_iff c g a (some g.band),
        by simp [outsideJudgement_clear_iff], outsideJudgement_held_or_approach_or_clear c g a (some g.band)⟩
    · rw [judgeFence_sector_inside hk inside, ← eq_angleTo hl, ← eq_angleTo hr, min_comm right left]
      obtain ⟨leftNearer, rightNearer, equal⟩ := exitRow_slews c g a
      exact ⟨rfl, rfl, fun h => leftNearer (by omega), fun h => rightNearer (by omega),
        fun h => equal (by omega)⟩
  · intro crawl valid active f
    cases f with
    | boomUp => cases active <;> rfl
    | slewLeft | slewRight => cases valid <;> cases active <;> rfl
    | _ => rfl

/-! ### The cap and the state of a fence in height (R62) -/

section Height

variable {c : Limits} {g : FenceGeom} {pose : PoseRec} {r : Int} {band : Nat}

/-- With a crawl cap of at most 1000, the rise that the model cuts off at 0 is not below it. -/
theorem cast_heightCap (crawl : c.crawl ≤ 1000) : (heightCap c band r : Int) =
    if (band : Int) ≤ r then 1000 else if 0 < r then c.crawl + (1000 - c.crawl) * r / band else 0 := by
  unfold heightCap
  split_ifs with clear positive
  · rfl
  · have rise : 0 ≤ (1000 - c.crawl : Int) * r / band :=
      Int.ediv_nonneg (mul_nonneg (by omega) positive.le) (by omega)
    rw [Nat.cast_add, Int.toNat_of_nonneg rise]
  · rfl

theorem heightState_of_band_le (h : (band : Int) ≤ r) : heightState band r = .clear := if_pos h

theorem heightState_of_pos (h : r < band) (pos : 0 < r) : heightState band r = .approach := by
  simp [heightState, h.not_ge, pos]

theorem heightState_of_within_tolerance (h : r < band) (nonpos : r ≤ 0) (within : -50 < r) :
    heightState band r = .held := by
  simp [heightState, breachTolerance, h.not_ge, nonpos.not_gt, within]

theorem heightState_of_past_tolerance (h : r < band) (past : r ≤ -50) : heightState band r = .breached := by
  have nonpos : r ≤ 0 := by omega
  simp [heightState, breachTolerance, h.not_ge, nonpos.not_gt, past.not_gt]

/-! ### The cases of the judgement of a fence in height (R62 to R64, R66, R67) -/

theorem indeterminate_of_height (hk : g.kind ≠ .sector) (cap : Nat) : indeterminate c g cap =
    { state := .indeterminate, remaining := none
      demands := (if turn g.start g.stop = 0 then Row.free else slewRow c.crawl c.crawl).setFunc
        g.kind.func cap } := by
  rw [← cast_sectorWidth]
  by_cases round : sectorWidth g.start g.stop = 0 <;>
    simp [indeterminate, FenceGeom.sectorActing, hk, round, Nat.pos_iff_ne_zero]

theorem judgeApplying_of_within (h : 0 ≤ heightRemaining g pose) (inside : Option Nat) :
    judgeApplying c g pose inside = judgeApplying c g pose none := by
  cases inside <;> simp [judgeApplying, h.not_gt]

theorem judgeApplying_of_beyond (h : heightRemaining g pose < 0) (a : Nat) :
    (judgeApplying c g pose (some a)).demands =
      (exitRow c g a).setFunc g.kind.func (heightCap c g.band (heightRemaining g pose)) := by
  simp [judgeApplying, h]

theorem judgeOutside_of_within (h : 0 ≤ heightRemaining g pose) (a : Nat) : judgeOutside c g pose a =
    { state := .clear, remaining := some (mmDistance (heightRemaining g pose)), demands := Row.free } := if_pos h

theorem judgeOutside_of_beyond (h : heightRemaining g pose < 0) (a : Nat) : judgeOutside c g pose a =
    { state := (outsideJudgement c g a none).1, remaining := some (angleDistance g a)
      demands := (outsideJudgement c g a none).2 } := if_neg h.not_ge

theorem slewOnly_judgeOutside (a : Nat) : (judgeOutside c g pose a).demands.SlewOnly := by
  rcases le_or_gt 0 (heightRemaining g pose) with within | beyond
  · rw [judgeOutside_of_within within]; exact Row.slewOnly_free
  · rw [judgeOutside_of_beyond beyond]; exact slewOnly_slewRow _ _

theorem FenceGeom.width_eq_zero_iff : g.width = 0 ↔ turn g.start g.stop = 0 := by
  rw [← cast_sectorWidth, Int.natCast_eq_zero]; rfl

section Cases

variable (hk : g.kind ≠ .sector) (hq : pose.quality ≠ .invalid)
include hk

theorem judgeFence_of_invalid_pose (invalid : pose.quality = .invalid) (angle : Option Nat) :
    judgeFence c g pose angle = indeterminate c g c.crawl := by
  simp [judgeFence, hk, invalid]

include hq

/-- A fence that applies all round is judged without a slew angle, any other by the angle inside its sector. -/
theorem judgeFence_of_applying {angle : Option Nat}
    (applies : turn g.start g.stop = 0 ∨ ∃ a, angle = some a ∧ turn g.start a ≤ turn g.start g.stop) :
    judgeFence c g pose angle =
      judgeApplying c g pose (if turn g.start g.stop = 0 then none else angle) := by
  by_cases round : turn g.start g.stop = 0
  · simp [judgeFence, hk, hq, FenceGeom.width_eq_zero_iff, round]
  · obtain ⟨a, rfl, inside⟩ := applies.resolve_left round
    simp [judgeFence, hk, hq, FenceGeom.width_eq_zero_iff, round, inSector_iff.mpr inside]

theorem judgeFence_of_outside {a : Nat} (sector : turn g.start g.stop ≠ 0)
    (outside : turn g.start g.stop < turn g.start a) :
    judgeFence c g pose (some a) = judgeOutside c g pose a := by
  simp [judgeFence, hk, hq, FenceGeom.width_eq_zero_iff, sector, inSector_iff, outside]

theorem judgeFence_without_angle (sector : turn g.start g.stop ≠ 0) :
    judgeFence c g pose none = indeterminate c g (heightCap c g.band (heightRemaining g pose)) := by
  simp [judgeFence, hk, hq, FenceGeom.width_eq_zero_iff, sector]

end Cases

section OtherFunctions

variable {f : Func} (other : f ≠ g.kind.func) (notLeft : f ≠ .slewLeft) (notRight : f ≠ .slewRight)
include other notLeft notRight

theorem Row.SlewOnly.get_setFunc_other {row : Row} (free : row.SlewOnly) (n : Nat) :
    (row.setFunc g.kind.func n).get f = 1000 :=
  (row.get_setFunc_ne n other).trans (free f notLeft notRight)

theorem indeterminate_get_other (hk : g.kind ≠ .sector) (cap : Nat) :
    (indeterminate c g cap).demands.get f = 1000 := by
  rw [indeterminate_of_height hk]
  split
  · exact Row.slewOnly_free.get_setFunc_other other notLeft notRight cap
  · exact (slewOnly_slewRow _ _).get_setFunc_other other notLeft notRight cap

theorem judgeApplying_get_other (inside : Option Nat) :
    (judgeApplying c g pose inside).demands.get f = 1000 := by
  rcases le_or_gt 0 (heightRemaining g pose) with within | beyond
  · rw [judgeApplying_of_within within]
    exact Row.slewOnly_free.get_setFunc_other other notLeft notRight _
  · cases inside with
    | none => exact Row.slewOnly_free.get_setFunc_other other notLeft notRight _
    | some a =>
      rw [judgeApplying_of_beyond beyond]
      exact slewOnly_exitRow.get_setFunc_other other notLeft notRight _

/-- A fence in height demands on its own function and the slew, and leaves the five other functions free. -/
theorem judgeFence_height_get_other (hk : g.kind ≠ .sector) (angle : Option Nat) :
    (judgeFence c g pose angle).demands.get f = 1000 := by
  have undecided := indeterminate_get_other (c := c) other notLeft notRight hk
  have applying := judgeApplying_get_other (c := c) (pose := pose) other notLeft notRight
  by_cases hq : pose.quality = .invalid
  · rw [judgeFence_of_invalid_pose hk hq, undecided]
  by_cases round : turn g.start g.stop = 0
  · rw [judgeFence_of_applying hk hq (.inl round), applying]
  cases angle with
  | none => rw [judgeFence_without_angle hk hq round, undecided]
  | some a =>
    rcases le_or_gt (turn g.start a) (turn g.start g.stop) with inside | outside
    · rw [judgeFence_of_applying hk hq (.inr ⟨a, rfl, inside⟩), applying]
    · rw [judgeFence_of_outside hk hq round outside, slewOnly_judgeOutside a f notLeft notRight]

end OtherFunctions

end Height

theorem FenceKind.func_ne_slew {k : FenceKind} (hk : k ≠ .sector) : k.func ≠ .slewLeft ∧ k.func ≠ .slewRight := by
  revert hk
  cases k <;> decide

/-- Settles O32, by the cases of the judgement: an INVALID pose, a fence that applies, a slew angle outside the
sector with the attachment within or beyond the limit, and a sector without a slew angle. -/
theorem heightFence : Obligations.HeightFence := by
  rintro c g pose angle _ L r F crawl limit kind rfl
  obtain ⟨hk, rfl, rfl⟩ : g.kind ≠ .sector ∧ F = g.kind.func ∧ r = heightRemaining g pose := by
    rcases kind with ⟨hk, rfl, rfl⟩ | ⟨hk, rfl, rfl⟩ | ⟨hk, rfl, rfl⟩ <;>
      simp [hk, FenceKind.func, heightRemaining, limit]
  refine ⟨fun f other left right => judgeFence_height_get_other other left right hk angle,
    fun hq => ?_, fun hq cap hcap => ⟨fun applies => ?_, ?_, ?_⟩⟩
  · rw [judgeFence_of_invalid_pose hk hq, indeterminate_of_height hk, Row.slewLeft_setFunc_height hk,
      Row.slewRight_setFunc_height hk]
    exact ⟨rfl, rfl, Row.get_setFunc _ _ _, apply_ite _ _ _ _, apply_ite _ _ _ _⟩
  · rw [judgeFence_of_applying hk hq applies]
    refine ⟨?_, rfl, heightState_of_band_le, heightState_of_pos, heightState_of_within_tolerance,
      heightState_of_past_tolerance, fun free => ?_, ?_⟩
    · rw [hcap, ← cast_heightCap crawl]
      exact congrArg Nat.cast (Row.get_setFunc _ _ _)
    · have uncapped : judgeApplying c g pose (if turn g.start g.stop = 0 then none else angle) =
          judgeApplying c g pose none := by
        rcases free with within | round
        · exact judgeApplying_of_within within _
        · rw [if_pos round]
      rw [uncapped]
      exact ⟨Row.slewLeft_setFunc_height hk _ _, Row.slewRight_setFunc_height hk _ _⟩
    · rintro a rfl beyond sector
      rw [if_neg sector, judgeApplying_of_beyond beyond, Row.slewLeft_setFunc_height hk,
        Row.slewRight_setFunc_height hk]
      exact exitRow_slews c g a
  · rintro a left right rfl sector outside hl hr
    obtain rfl := eq_angleTo hl
    obtain rfl := eq_angleTo hr
    obtain ⟨notLeft, notRight⟩ := FenceKind.func_ne_slew hk
    rw [judgeFence_of_outside hk hq sector outside]
    refine ⟨slewOnly_judgeOutside a _ notLeft notRight, fun within => ?_, fun beyond => ?_⟩
    · rw [judgeOutside_of_within within]
      exact ⟨rfl, rfl, rfl, rfl⟩
    · rw [judgeOutside_of_beyond beyond, angleDistance_eq]
      exact ⟨rfl, rfl, rfl, outsideJudgement_held_iff c g a none, by simp [outsideJudgement_clear_iff],
        outsideJudgement_held_or_approach_or_clear c g a none⟩
  · rintro rfl sector
    rw [judgeFence_without_angle hk hq sector, indeterminate_of_height hk, if_neg sector,
      Row.slewLeft_setFunc_height hk, Row.slewRight_setFunc_height hk, hcap, ← cast_heightCap crawl]
    exact ⟨rfl, rfl, congrArg Nat.cast (Row.get_setFunc _ _ _), rfl, rfl⟩

end Sys2Proof.Machine

/-! PROOFS. The checksum (R149): one byte into the sum as arithmetic on whole numbers, and the sum of a run byte
by byte. -/

namespace Sys2Proof.Machine

/-- The low thirteen bits move up three places and the high three to the places they leave, which do not
overlap, so that the two parts add. -/
theorem toNat_rotateLeft_three (x : BitVec 16) :
    (x.rotateLeft 3).toNat = x.toNat % 8192 * 8 + x.toNat / 8192 := by
  have moved : x.toNat <<< 3 % 65536 = 2 ^ 3 * (x.toNat % 8192) := by
    rw [Nat.shiftLeft_eq]; omega
  have carried : x.toNat / 8192 < 2 ^ 3 := by omega
  calc (x.rotateLeft 3).toNat
      = x.toNat <<< 3 % 65536 ||| x.toNat >>> 13 := BitVec.toNat_rotateLeft
    _ = 2 ^ 3 * (x.toNat % 8192) ||| x.toNat / 8192 := by rw [moved, Nat.shiftRight_eq_div_pow]
    _ = 2 ^ 3 * (x.toNat % 8192) + x.toNat / 8192 := (Nat.two_pow_add_eq_or_of_lt carried _).symm
    _ = x.toNat % 8192 * 8 + x.toNat / 8192 := by rw [Nat.mul_comm]

theorem toNat_checksumStep (sum : BitVec 16) (b : Byte) :
    (checksumStep sum b).toNat = (sum.toNat % 8192 * 8 + sum.toNat / 8192 + b.toNat) % 65536 := by
  rw [checksumStep, BitVec.toNat_add, BitVec.toNat_setWidth_of_le (by decide), toNat_rotateLeft_three]

@[simp] theorem checksum_nil : checksum [] = 0 := rfl

theorem checksum_concat (bytes : List Byte) (b : Byte) :
    checksum (bytes ++ [b]) = checksumStep (checksum bytes) b := List.foldl_concat ..

/-- Settles O17: a last byte is one step from the sum of the bytes before it. -/
theorem checksumRule : Obligations.ChecksumRule := by
  refine ⟨checksum_nil, fun bytes b => ?_⟩
  rw [checksum_concat, toNat_checksumStep]

end Sys2Proof.Machine
